-- ==== Sys2Proof/Word.lean ====
section
/-! DEFINITION. The word types of SECP256K1-CORE: 256-bit values, bytes, command words, and the bound W = 2^256
(spec/00_scope R7, R8). -/

namespace Sys2Proof

/-- A 256-bit value, the contents of a V register, of M and of a coordinate (spec/10_state R101, R110, R120). -/
abbrev Word := BitVec 256

/-- One byte of the data RAM (spec/20_memory R202). -/
abbrev Byte := BitVec 8

/-- One 32-bit word: a command (spec/30_encoding R300) or a word of the host bus (spec/10_state R146). -/
abbrev CmdWord := BitVec 32

/-- `W = 2^256` (spec/00_scope R8). -/
def W : Nat := 2 ^ 256

end Sys2Proof
end

