-- ==== Sys2Proof/Syntax.lean ====
section
/-! DEFINITION. The SK1 command set, version 1: one constructor per row of spec/opcode_table.json (25 rows), each with
the fields of its format (spec/30_encoding R301, R302, R310). -/

namespace Sys2Proof

/-- Index of a value register V0 to V15; every index is legal (spec/30_encoding R310). -/
abbrev VReg := BitVec 4

/-- Index of a point register Q0 to Q15; every index is legal (spec/30_encoding R310). -/
abbrev QReg := BitVec 4

/-- The instructions, in the order of the opcode map (spec/30_encoding R320). Arithmetic instructions carry `ms` first,
then `rd`, `rs1`, `rs2`, the order of the fields in the word. The raw fields `ms` and `cid` keep their encoded widths;
`Instr.WellFormed` says which values the command set gives a meaning. -/
inductive Instr where
  /-- no operation (R800) -/
  | nop
  /-- end the run (R801) -/
  | halt
  /-- unconditional jump (R802) -/
  | j (target : BitVec 8)
  /-- branch if F is set (R803) -/
  | bf (target : BitVec 8)
  /-- branch if F is clear (R804) -/
  | bnf (target : BitVec 8)
  /-- load a value from a data-RAM slot (R700) -/
  | ldv (rd : VReg) (slot : BitVec 7)
  /-- store a value to a data-RAM slot (R701) -/
  | stv (rs1 : VReg) (slot : BitVec 7)
  /-- load a 12-bit immediate (R702) -/
  | ldi (rd : VReg) (imm : BitVec 12)
  /-- load a curve constant or M (R703) -/
  | ldc (rd : VReg) (cid : BitVec 4)
  /-- copy a value register (R704) -/
  | mov (rd rs1 : VReg)
  /-- set the modulus register (R705) -/
  | setm (rs1 : VReg)
  /-- modular addition (R400) -/
  | madd (ms : BitVec 2) (rd rs1 rs2 : VReg)
  /-- modular subtraction (R410) -/
  | msub (ms : BitVec 2) (rd rs1 rs2 : VReg)
  /-- modular multiplication (R420) -/
  | mmul (ms : BitVec 2) (rd rs1 rs2 : VReg)
  /-- modular inverse (R440) -/
  | minv (ms : BitVec 2) (rd rs1 : VReg)
  /-- unsigned greater-or-equal compare (R460) -/
  | cmpge (rs1 rs2 : VReg)
  /-- make an affine point (R510) -/
  | mkpt (rd : QReg) (rs1 rs2 : VReg)
  /-- make the point at infinity (R511) -/
  | mkinf (rd : QReg)
  /-- copy a point register (R512) -/
  | pmov (rd rs1 : QReg)
  /-- read the x-coordinate (R513) -/
  | ptx (rd : VReg) (rs1 : QReg)
  /-- read the y-coordinate (R514) -/
  | pty (rd : VReg) (rs1 : QReg)
  /-- test for the point at infinity (R515) -/
  | ptinf (rs1 : QReg)
  /-- point addition (R521) -/
  | padd (rd rs1 rs2 : QReg)
  /-- point doubling (R520) -/
  | pdbl (rd rs1 : QReg)
  /-- scalar multiplication (R600) -/
  | pmul (rd rs1 : QReg) (rs2 : VReg)
  deriving DecidableEq, Repr

end Sys2Proof
end

