-- ==== Sys2Proof/WellFormed.lean ====
section
/-! DEFINITION. Which instructions are well formed: the "extra condition" column of spec/30_encoding R321. Every other
field admits every value of its width (R310, R311, R322). -/

namespace Sys2Proof

/-- The extra condition of an instruction's row in spec/30_encoding R321: `w[25:24] ≠ 3` for MADD, MSUB, MMUL and MINV,
`w[3:0] ≤ 6` for LDC, none for the others. -/
def Instr.WellFormed : Instr → Bool
  | .nop => true
  | .halt => true
  | .j _ => true
  | .bf _ => true
  | .bnf _ => true
  | .ldv _ _ => true
  | .stv _ _ => true
  | .ldi _ _ => true
  | .ldc _ cid => decide (cid ≤ 6#4)
  | .mov _ _ => true
  | .setm _ => true
  | .madd ms _ _ _ => decide (ms ≠ 3#2)
  | .msub ms _ _ _ => decide (ms ≠ 3#2)
  | .mmul ms _ _ _ => decide (ms ≠ 3#2)
  | .minv ms _ _ => decide (ms ≠ 3#2)
  | .cmpge _ _ => true
  | .mkpt _ _ _ => true
  | .mkinf _ => true
  | .pmov _ _ => true
  | .ptx _ _ => true
  | .pty _ _ => true
  | .ptinf _ => true
  | .padd _ _ _ => true
  | .pdbl _ _ => true
  | .pmul _ _ _ => true

end Sys2Proof
end

