-- ==== Sys2Proof/Decode.lean ====
section
/-! DEFINITION. Decoding a command word, total and rejecting by name (spec/30_encoding R301, R302, R320 to R322), and
after it the encoder, written from the match values of R321 and the field places of R301. -/

namespace Sys2Proof

/-- Why a word decodes to no instruction: the five items of spec/30_encoding R322, in its order. Every one of them is
E_ILLEGAL to the machine (spec/60_exceptions R902). -/
inductive Illegal where
  /-- item 1: op = 0x00 -/
  | opZero
  /-- item 2: op unassigned -/
  | opUnassigned
  /-- item 3: a must-be-zero bit of the format is set -/
  | mustBeZero
  /-- item 4: ms = 3 -/
  | modulusSelect
  /-- item 5: LDC with cid 7 to 15 -/
  | constantId
  deriving DecidableEq, Repr

/-! ### Fields (R301) -/

/-- op, bits [31:26]. -/
def fieldOp (w : CmdWord) : BitVec 6 := w.extractLsb' 26 6
/-- ms, bits [25:24]. -/
def fieldMs (w : CmdWord) : BitVec 2 := w.extractLsb' 24 2
/-- rd, bits [23:20]. -/
def fieldRd (w : CmdWord) : BitVec 4 := w.extractLsb' 20 4
/-- rs1, bits [19:16]. -/
def fieldRs1 (w : CmdWord) : BitVec 4 := w.extractLsb' 16 4
/-- rs2, bits [15:12]. -/
def fieldRs2 (w : CmdWord) : BitVec 4 := w.extractLsb' 12 4
/-- imm12, bits [11:0]. -/
def fieldImm (w : CmdWord) : BitVec 12 := w.extractLsb' 0 12
/-- target, bits [7:0]. -/
def fieldTarget (w : CmdWord) : BitVec 8 := w.extractLsb' 0 8
/-- slot, bits [6:0]. -/
def fieldSlot (w : CmdWord) : BitVec 7 := w.extractLsb' 0 7
/-- cid, bits [3:0]. -/
def fieldCid (w : CmdWord) : BitVec 4 := w.extractLsb' 0 4

/-! ### The must-be-zero bits of each format (R302) -/

/-- format N: [25:0]. -/
def mbzN : CmdWord := 0x03FFFFFF#32
/-- format B: [25:8]. -/
def mbzB : CmdWord := 0x03FFFF00#32
/-- format L: [25:24], [19:7]. -/
def mbzL : CmdWord := 0x030FFF80#32
/-- format S: [25:20], [15:7]. -/
def mbzS : CmdWord := 0x03F0FF80#32
/-- format I: [25:24], [19:12]. -/
def mbzI : CmdWord := 0x030FF000#32
/-- format C: [25:24], [19:4]. -/
def mbzC : CmdWord := 0x030FFFF0#32
/-- format D: [25:24], [19:0]. -/
def mbzD : CmdWord := 0x030FFFFF#32
/-- format R1: [25:20], [15:0]. -/
def mbzR1 : CmdWord := 0x03F0FFFF#32
/-- format R2: [25:24], [15:0]. -/
def mbzR2 : CmdWord := 0x0300FFFF#32
/-- format R3: [25:24], [11:0]. -/
def mbzR3 : CmdWord := 0x03000FFF#32
/-- format CMP: [25:20], [11:0]. -/
def mbzCmp : CmdWord := 0x03F00FFF#32
/-- format M3: [11:0]. -/
def mbzM3 : CmdWord := 0x00000FFF#32
/-- format M2: [15:0]. -/
def mbzM2 : CmdWord := 0x0000FFFF#32

/-- A word of an assigned opcode is the instruction `i` if its format's must-be-zero bits are 0 (R322 item 3) and the
row's extra condition holds; `why` names the failed condition (R322 items 4 and 5). -/
def decodeForm (mbz w : CmdWord) (why : Illegal) (i : Instr) : Except Illegal Instr :=
  if w &&& mbz ≠ 0#32 then .error .mustBeZero
  else if i.WellFormed then .ok i else .error why

/-- The instruction a command word is, or the reason it is none (R320, R321, R322). -/
def decode (w : CmdWord) : Except Illegal Instr :=
  match (fieldOp w).toNat with
  | 0x00 => .error .opZero
  | 0x01 => decodeForm mbzN w .mustBeZero .nop
  | 0x02 => decodeForm mbzN w .mustBeZero .halt
  | 0x03 => decodeForm mbzB w .mustBeZero (.j (fieldTarget w))
  | 0x04 => decodeForm mbzB w .mustBeZero (.bf (fieldTarget w))
  | 0x05 => decodeForm mbzB w .mustBeZero (.bnf (fieldTarget w))
  | 0x08 => decodeForm mbzL w .mustBeZero (.ldv (fieldRd w) (fieldSlot w))
  | 0x09 => decodeForm mbzS w .mustBeZero (.stv (fieldRs1 w) (fieldSlot w))
  | 0x0A => decodeForm mbzI w .mustBeZero (.ldi (fieldRd w) (fieldImm w))
  | 0x0B => decodeForm mbzC w .constantId (.ldc (fieldRd w) (fieldCid w))
  | 0x0C => decodeForm mbzR2 w .mustBeZero (.mov (fieldRd w) (fieldRs1 w))
  | 0x0D => decodeForm mbzR1 w .mustBeZero (.setm (fieldRs1 w))
  | 0x10 => decodeForm mbzM3 w .modulusSelect (.madd (fieldMs w) (fieldRd w) (fieldRs1 w) (fieldRs2 w))
  | 0x11 => decodeForm mbzM3 w .modulusSelect (.msub (fieldMs w) (fieldRd w) (fieldRs1 w) (fieldRs2 w))
  | 0x12 => decodeForm mbzM3 w .modulusSelect (.mmul (fieldMs w) (fieldRd w) (fieldRs1 w) (fieldRs2 w))
  | 0x13 => decodeForm mbzM2 w .modulusSelect (.minv (fieldMs w) (fieldRd w) (fieldRs1 w))
  | 0x14 => decodeForm mbzCmp w .mustBeZero (.cmpge (fieldRs1 w) (fieldRs2 w))
  | 0x18 => decodeForm mbzR3 w .mustBeZero (.mkpt (fieldRd w) (fieldRs1 w) (fieldRs2 w))
  | 0x19 => decodeForm mbzD w .mustBeZero (.mkinf (fieldRd w))
  | 0x1A => decodeForm mbzR2 w .mustBeZero (.pmov (fieldRd w) (fieldRs1 w))
  | 0x1B => decodeForm mbzR2 w .mustBeZero (.ptx (fieldRd w) (fieldRs1 w))
  | 0x1C => decodeForm mbzR2 w .mustBeZero (.pty (fieldRd w) (fieldRs1 w))
  | 0x1D => decodeForm mbzR1 w .mustBeZero (.ptinf (fieldRs1 w))
  | 0x20 => decodeForm mbzR3 w .mustBeZero (.padd (fieldRd w) (fieldRs1 w) (fieldRs2 w))
  | 0x21 => decodeForm mbzR2 w .mustBeZero (.pdbl (fieldRd w) (fieldRs1 w))
  | 0x22 => decodeForm mbzR3 w .mustBeZero (.pmul (fieldRd w) (fieldRs1 w) (fieldRs2 w))
  | _ => .error .opUnassigned

/-! ### The encoder: the match value of R321 with each field at its place (R301) -/

/-- ms at bits [25:24]. -/
def placeMs (x : BitVec 2) : CmdWord := x.setWidth 32 <<< 24
/-- rd at bits [23:20]. -/
def placeRd (x : BitVec 4) : CmdWord := x.setWidth 32 <<< 20
/-- rs1 at bits [19:16]. -/
def placeRs1 (x : BitVec 4) : CmdWord := x.setWidth 32 <<< 16
/-- rs2 at bits [15:12]. -/
def placeRs2 (x : BitVec 4) : CmdWord := x.setWidth 32 <<< 12
/-- imm12, target, slot or cid at the low bits. -/
def placeLow {n : Nat} (x : BitVec n) : CmdWord := x.setWidth 32

/-- The command word of an instruction: the match value of its row in R321, its fields at the places of R301, every
other bit 0. -/
def encode : Instr → CmdWord
  | .nop => 0x04000000#32
  | .halt => 0x08000000#32
  | .j target => 0x0C000000#32 ||| placeLow target
  | .bf target => 0x10000000#32 ||| placeLow target
  | .bnf target => 0x14000000#32 ||| placeLow target
  | .ldv rd slot => 0x20000000#32 ||| placeRd rd ||| placeLow slot
  | .stv rs1 slot => 0x24000000#32 ||| placeRs1 rs1 ||| placeLow slot
  | .ldi rd imm => 0x28000000#32 ||| placeRd rd ||| placeLow imm
  | .ldc rd cid => 0x2C000000#32 ||| placeRd rd ||| placeLow cid
  | .mov rd rs1 => 0x30000000#32 ||| placeRd rd ||| placeRs1 rs1
  | .setm rs1 => 0x34000000#32 ||| placeRs1 rs1
  | .madd ms rd rs1 rs2 => 0x40000000#32 ||| placeMs ms ||| placeRd rd ||| placeRs1 rs1 ||| placeRs2 rs2
  | .msub ms rd rs1 rs2 => 0x44000000#32 ||| placeMs ms ||| placeRd rd ||| placeRs1 rs1 ||| placeRs2 rs2
  | .mmul ms rd rs1 rs2 => 0x48000000#32 ||| placeMs ms ||| placeRd rd ||| placeRs1 rs1 ||| placeRs2 rs2
  | .minv ms rd rs1 => 0x4C000000#32 ||| placeMs ms ||| placeRd rd ||| placeRs1 rs1
  | .cmpge rs1 rs2 => 0x50000000#32 ||| placeRs1 rs1 ||| placeRs2 rs2
  | .mkpt rd rs1 rs2 => 0x60000000#32 ||| placeRd rd ||| placeRs1 rs1 ||| placeRs2 rs2
  | .mkinf rd => 0x64000000#32 ||| placeRd rd
  | .pmov rd rs1 => 0x68000000#32 ||| placeRd rd ||| placeRs1 rs1
  | .ptx rd rs1 => 0x6C000000#32 ||| placeRd rd ||| placeRs1 rs1
  | .pty rd rs1 => 0x70000000#32 ||| placeRd rd ||| placeRs1 rs1
  | .ptinf rs1 => 0x74000000#32 ||| placeRs1 rs1
  | .padd rd rs1 rs2 => 0x80000000#32 ||| placeRd rd ||| placeRs1 rs1 ||| placeRs2 rs2
  | .pdbl rd rs1 => 0x84000000#32 ||| placeRd rd ||| placeRs1 rs1
  | .pmul rd rs1 rs2 => 0x88000000#32 ||| placeRd rd ||| placeRs1 rs1 ||| placeRs2 rs2

/-- The one command word whose bits, numbered as spec/opcode_table.json numbers them, are the low `nbits` bits of `w`;
every bit above them is 0. -/
def tableWord (nbits w : Nat) : CmdWord := BitVec.ofNat 32 (w % 2 ^ nbits)

/-- The instruction the decoder reads from the table's bits `w`; none where it refuses the word. -/
def decodeTableWord (nbits w : Nat) : Option Instr :=
  match decode (tableWord nbits w) with
  | .ok i => some i
  | .error _ => none

end Sys2Proof
end

