-- ==== Sys2Proof/Machine/Agents.lean ====
section
/-! DEFINITION. The moves of the agents: a core turn, one transaction of the host (spec/10_state R146), a hardware reset
(spec/70_reset R1000, R1014). -/

namespace Sys2Proof.Machine

/-- The size of a host access: 1, 2 or 4 bytes (spec/10_state R146). -/
inductive AccessSize where
  | one
  | two
  | four
  deriving DecidableEq, Repr

/-- One host bus transaction (spec/10_state R146): a byte offset from 0 to 0x3FFF, a size and, for a write, the bus
data. -/
inductive Transaction where
  | read (offset : BitVec 14) (size : AccessSize)
  | write (offset : BitVec 14) (size : AccessSize) (data : CmdWord)
  deriving DecidableEq, Repr

/-- What a transaction answers (spec/10_state R146). A write answers err alone; its `data` is 0 (log 13). -/
structure Response where
  data : CmdWord
  err : Bool
  deriving DecidableEq, Repr

/-- One move of the two agents or of the reset input (spec/70_reset R1000, R1014; log 3). -/
inductive Move where
  /-- a turn of the core: one step if STATE = BUSY, nothing otherwise -/
  | core
  /-- one transaction of the host -/
  | bus (t : Transaction)
  /-- rst_n held at 0 and released; no transaction falls inside it (log 11) -/
  | hardReset
  deriving DecidableEq, Repr

end Sys2Proof.Machine
end

