-- ==== Sys2Proof/Config.lean ====
section
/-! DEFINITION. The free values: what the spec leaves open and a model draws (spec/93_implementation_defined U3, U4, U13).
Each is a constant without a body, so that no proof can use a value of it. The spec's named parameters (LAT, MONT_RADIX,
CORE_BASE, IRQ_LINE, HOST_ACCESS_POLICY, INSTANCES) are used by no rule and have no constant here (log 14, 15). -/

namespace Sys2Proof

/-- FREE VALUE. `powerUpByte k a` is the byte that data-RAM address `a` holds after hardware reset number `k` until it is
written: drawn once per location, kept until written (spec/20_memory R227; log 1). -/
opaque Config.powerUpByte : Nat → Nat → Byte

/-- FREE VALUE. `powerUpWord k i` is the word that command-RAM index `i` holds after hardware reset number `k` until it is
written (spec/20_memory R227; log 1). -/
opaque Config.powerUpWord : Nat → Nat → CmdWord

/-- FREE VALUE. `pcPick k` chooses, for the `k`-th host read of PC during a run, which of the indices the run has reached
since the last one the host saw is returned (spec/10_state R157; log 6). -/
opaque Config.pcPick : Nat → Nat

/-- FREE VALUE. `hostMoves k` is the finite list of moves made before the `k`-th core turn of an endless sequence of core
turns. With no bound on their lengths, these lists give every endless interleaving in which the core's turn always comes
again (spec/70_reset R1014, R1032; log 3). -/
opaque Config.hostMoves : Nat → List Machine.Move

end Sys2Proof
end

