-- ==== Sys2Proof/Machine/State.lean ====
section
/-! DEFINITION. The state of one SECP256K1-CORE instance (spec/10_state R100), what a step can answer, and the state
after hardware reset (R180). Plain data only. -/

namespace Sys2Proof.Machine

/-- A point value: the point at infinity, or an affine coordinate pair (spec/00_scope R12). No coordinates are stored
for infinity (spec/93 U2). -/
inductive Point where
  | inf
  | aff (x y : Word)
  deriving DecidableEq, Repr

/-- STATE (spec/10_state R130). -/
inductive RunState where
  /-- 0: after reset, no run yet -/
  | idle
  /-- 1: a run is executing -/
  | busy
  /-- 2: the last run executed HALT -/
  | done
  /-- 3: the last run stopped on an exception -/
  | fault
  deriving DecidableEq, Repr

/-- The exceptions an instruction or a fetch can raise (spec/60_exceptions R901). -/
inductive Exc where
  /-- E_ILLEGAL, R902 -/
  | illegal
  /-- E_FETCH, R903 -/
  | fetch
  /-- E_UNINIT, R904 -/
  | uninit
  /-- E_MODULUS, R905 -/
  | modulus
  /-- E_NO_INVERSE, R906 -/
  | noInverse
  /-- E_INVALID_POINT, R907 -/
  | invalidPoint
  /-- E_INVALID_ENCODING, R908 -/
  | invalidEncoding
  /-- E_INFINITY, R909 -/
  | infinity
  deriving DecidableEq, Repr

/-- A RAM as the cells written since hardware reset: (location, content) pairs, locations strictly rising. -/
abbrev Ram (n : Nat) := List (Nat × BitVec n)

/-- The data RAM: byte cells, `Host.Cell` (spec/20_memory R202). -/
abbrev Memory := List Host.Cell

/-- The command RAM: word cells (spec/20_memory R201). -/
abbrev CmdRam := Ram 32

/-- The architectural state (spec/10_state R100), and after it the model's own fields `schedule`, `stream`,
`resp`, `trail`, `draws` and `powerUps` (log 1, 3, 6, 7). -/
structure State where
  /-- V0 to V15 (R101) -/
  v : Vector Word 16
  /-- VALID_V (R102) -/
  validV : BitVec 16
  /-- Q0 to Q15 (R110) -/
  q : Vector Point 16
  /-- VALID_P (R112) -/
  validP : BitVec 16
  /-- M (R120) -/
  m : Word
  /-- VALID_M (R121) -/
  validM : Bool
  /-- F (R125) -/
  f : Bool
  /-- pc (R131) -/
  pc : BitVec 9
  /-- STATE (R130) -/
  runState : RunState
  /-- CAUSE.CODE (R153) -/
  cause : BitVec 4
  /-- FAULT_PC (R154) -/
  faultPc : BitVec 9
  /-- FAULT_INSTR (R155) -/
  faultInstr : CmdWord
  /-- START_PC (R156) -/
  startPc : BitVec 8
  /-- CTRL.IE (R151) -/
  ie : Bool
  /-- STATUS.IRQ_PENDING (R152) -/
  irqPending : Bool
  /-- the command RAM (spec/20_memory R201): the words written since hardware reset -/
  cmd : CmdRam
  /-- the data RAM (spec/20_memory R202): the bytes written since hardware reset -/
  data : Memory
  /-- the model's own: the next moves, oldest first (log 3) -/
  schedule : List Move
  /-- the model's own: the moves when `schedule` is used up. none: the core's turn for ever. some k: `Config.hostMoves k`,
  a core turn, `Config.hostMoves (k + 1)`, a core turn, and so on (log 3) -/
  stream : Option Nat
  /-- the model's own: the answer to the last host transaction, if one was made since hardware reset (log 7) -/
  resp : Option Response
  /-- the model's own: while BUSY, the indices the run has reached since (and with) the one a host read of PC last
  returned, newest first; empty otherwise (log 6) -/
  trail : List (BitVec 9)
  /-- the model's own: how many free values PC reads have drawn (log 6) -/
  draws : Nat
  /-- the model's own: how many hardware resets came before, the number of the RAMs' current draw (log 1) -/
  powerUps : Nat
  deriving DecidableEq, Repr

/-- Reasons to stop with a fault: none. Every exception the spec describes is a next state (spec/60_exceptions R920), and
no step of this hardware is stuck, so nobody raises one (log 16). -/
inductive Fault
  deriving DecidableEq, Repr

/-- Reasons to refuse a step. -/
inductive Refusal where
  /-- Raised by an arm of `exec` for an instruction without a meaning, and by nothing else: safe. Every arm of this model
  calls a meaning, so nobody raises it (log 16). -/
  | notModelled (mnemonic : String)
  deriving DecidableEq, Repr

/-- The state after hardware reset (spec/10_state R180; spec/70_reset R1000). The contents of V, Q and M are unspecified
and unreadable there; the model names 0, INF and 0 (log 2). Nothing is written in either RAM, so every location reads
as its free value (log 1). -/
def State.reset : State where
  v := Vector.replicate 16 0#256
  validV := 0#16
  q := Vector.replicate 16 .inf
  validP := 0#16
  m := 0#256
  validM := false
  f := false
  pc := 0#9
  runState := .idle
  cause := 0#4
  faultPc := 0#9
  faultInstr := 0#32
  startPc := 0#8
  ie := false
  irqPending := false
  cmd := []
  data := []
  schedule := []
  stream := none
  resp := none
  trail := []
  draws := 0
  powerUps := 0

end Sys2Proof.Machine
end

