-- ==== Sys2Proof/Machine/Curve.lean ====
section
/-! DEFINITION. The curve constants (spec/10_state R140), the field helpers (spec/00_scope R13), the modular inverse
(spec/40_modular_arith R440) and the group law with scalar multiplication (spec/41_point_ops R500 to R502,
spec/42_scalar_mult R600): pure functions over integers, with no state. -/

namespace Sys2Proof.Machine

/-! ### Constants (spec/10_state R140; log 19) -/

/-- A, cid 0. -/
def curveA : Nat := 0
/-- B, cid 1. -/
def curveB : Nat := 7
/-- P, cid 2: the field prime. -/
def primeP : Nat := 0xFFFFFFFFFFFFFFFFFFFFFFFFFFFFFFFFFFFFFFFFFFFFFFFFFFFFFFFEFFFFFC2F
/-- N, cid 3: the curve order. -/
def orderN : Nat := 0xFFFFFFFFFFFFFFFFFFFFFFFFFFFFFFFEBAAEDCE6AF48A03BBFD25E8CD0364141
/-- Gx, cid 4. -/
def genX : Nat := 0x79BE667EF9DCBBAC55A06295CE870B07029BFCDB2DCE28D959F2815B16F81798
/-- Gy, cid 5. -/
def genY : Nat := 0x483ADA7726A3C4655DA4FBFC0E1108A8FD17B448A68554199C47D08FFB10D4B8

/-! ### The modular inverse (R440) -/

/-- Euclid's algorithm with the Bezout coefficient of the second operand kept modulo `m`: at every stage
`r0 = t0 * a` and `r1 = t1 * a` modulo `m`. Answers the last nonzero remainder and its coefficient. -/
def euclid (m : Nat) : Nat → Nat → Nat → Nat → Nat → Nat × Nat
  | 0, r0, _, t0, _ => (r0, t0)
  | fuel + 1, r0, r1, t0, t1 =>
    if r1 = 0 then (r0, t0)
    else euclid m fuel r1 (r0 % r1) t1 ((t0 + (m - r0 / r1 * t1 % m)) % m)

/-- Enough stages for 256-bit operands: two stages at least halve the remainder. -/
def euclidFuel : Nat := 520

/-- The unique `c` with `1 ≤ c ≤ m - 1` and `a * c mod m = 1`, for `1 < m < 2^256`; none if `gcd (a mod m, m) ≠ 1`
(R440). -/
def modInverse (a m : Nat) : Option Nat :=
  if Nat.gcd (a % m) m = 1 then some (euclid m euclidFuel m (a % m) 0 1).2 else none

/-! ### Field helpers modulo P (spec/00_scope R13) -/

/-- `fadd(a, b) = (a + b) mod P`. -/
def fadd (a b : Nat) : Nat := (a + b) % primeP
/-- `fsub(a, b) = (a - b) mod P`. -/
def fsub (a b : Nat) : Nat := (a + (primeP - b % primeP)) % primeP
/-- `fmul(a, b) = (a * b) mod P`. -/
def fmul (a b : Nat) : Nat := a * b % primeP
/-- `inv_P(a)`, for `a mod P ≠ 0`. The group law never calls it with `a mod P = 0` on valid points (R503 item 3); there
the function answers 0 (log 10). -/
def finv (a : Nat) : Nat := (modInverse a primeP).getD 0
/-- `fdiv(a, b) = fmul(a, inv_P(b))`. -/
def fdiv (a b : Nat) : Nat := fmul a (finv b)

/-! ### Points (spec/41_point_ops R500 to R502) -/

/-- `onCurve(x, y)`: both coordinates below P and `y² = x³ + 7` modulo P (spec/00_scope R12). -/
def onCurve (x y : Nat) : Bool :=
  decide (x < primeP) && decide (y < primeP) && decide (y * y % primeP = (x * x * x + curveB) % primeP)

/-- `validPt` (R500). -/
def validPt : Point → Bool
  | .inf => true
  | .aff x y => onCurve x.toNat y.toNat

/-- The affine point with coordinates `x`, `y`, each below 2^256. -/
def affine (x y : Nat) : Point := .aff (BitVec.ofNat 256 x) (BitVec.ofNat 256 y)

/-- `pointDouble` (R501), the cases in the source's order. -/
def pointDouble : Point → Point
  | .inf => .inf
  | .aff xw yw =>
    let x := xw.toNat
    let y := yw.toNat
    if y = 0 then .inf
    else
      let s := fdiv (fadd (fmul 3 (fmul x x)) curveA) (fmul 2 y)
      let x3 := fsub (fmul s s) (fmul 2 x)
      let y3 := fsub (fmul s (fsub x x3)) y
      affine x3 y3

/-- `pointAdd` (R502), the cases in the source's order; equal points are doubled (90_conflicts C2). -/
def pointAdd : Point → Point → Point
  | .inf, q => q
  | .aff x y, .inf => .aff x y
  | .aff x1w y1w, .aff x2w y2w =>
    let x1 := x1w.toNat
    let y1 := y1w.toNat
    let x2 := x2w.toNat
    let y2 := y2w.toNat
    if x1 = x2 ∧ y1 ≠ y2 then .inf
    else if x1 = x2 ∧ y1 = y2 then pointDouble (.aff x1w y1w)
    else
      let s := fdiv (fsub y2 y1) (fsub x2 x1)
      let x3 := fsub (fsub (fmul s s) x1) x2
      let y3 := fsub (fmul s (fsub x1 x3)) y1
      affine x3 y3

/-- One turn of the double-and-add loop for bit `i` of `k` (R600). -/
def ladderStep (k : Nat) (p acc : Point) (i : Nat) : Point :=
  let d := pointDouble acc
  if k.testBit i then pointAdd d p else d

/-- The bits of `k` below `n`, from the most significant down (R600). -/
def ladder (k : Nat) (p : Point) : Nat → Point → Point
  | 0, acc => acc
  | n + 1, acc => ladder k p n (ladderStep k p acc n)

/-- `k·p`: `k` reduced modulo N, then double-and-add over 256 bits from infinity (R600). -/
def scalarMul (k : Nat) (p : Point) : Point := ladder (k % orderN) p 256 .inf

end Sys2Proof.Machine
end

