-- ==== Sys2Proof/Machine/Ops.lean ====
section
/-! DEFINITION. The named operations over the state: RAM cells, register reads and writes (spec/00_scope R11), the
program counter (spec/10_state R132), taking an exception (spec/60_exceptions R920), ending a run by HALT
(spec/44_control R801), the GO that returns from an exception (spec/10_state R151, spec/60_exceptions R922) and both
resets (spec/70_reset R1000, R1001). -/

namespace Sys2Proof.Machine

/-! ### RAM cells -/

/-- What was written at location `k` since hardware reset. An unlisted location answers none: nothing was written there
(log 1). -/
def Ram.get? {n : Nat} : Ram n → Nat → Option (BitVec n)
  | [], _ => none
  | (a, b) :: m, k => if a = k then some b else Ram.get? m k

/-- Write `x` at location `k`, keeping the locations strictly rising. -/
def Ram.set {n : Nat} : Ram n → Nat → BitVec n → Ram n
  | [], k, x => [(k, x)]
  | (a, b) :: m, k, x =>
    if k < a then (k, x) :: (a, b) :: m
    else if k = a then (k, x) :: m
    else (a, b) :: Ram.set m k x

/-- The canonical form: locations strictly rising and below `bound`. No listed cell equals what an unlisted one reads
as, since a listed cell was written and an unlisted one was not (log 1). -/
def Ram.wf {n : Nat} (bound : Nat) : Ram n → Bool
  | [] => true
  | (a, _) :: m => decide (a < bound) && m.head?.all (fun c => decide (a < c.1)) && Ram.wf bound m

/-- The canonical form of the data RAM: 4096 bytes (spec/20_memory R202). -/
def Memory.wf (m : Memory) : Bool := Ram.wf (n := 8) 4096 m

/-- The canonical form of the command RAM: 256 words (spec/20_memory R201). -/
def CmdRam.wf (m : CmdRam) : Bool := Ram.wf 256 m

/-! ### Command RAM (spec/20_memory R201) -/

/-- `CmdRead(i)`: the word at index `i`; a word not written since hardware reset is its free value (R227). -/
def State.cmdWord (s : State) (i : Nat) : CmdWord := (Ram.get? s.cmd i).getD (Config.powerUpWord s.powerUps i)

/-- Write `CMD[i]`. Only the host does (R201). -/
def State.setCmdWord (s : State) (i : Nat) (w : CmdWord) : State := { s with cmd := Ram.set s.cmd i w }

/-! ### Data RAM (spec/20_memory R202, R204) -/

/-- `DATA[a]`; a byte not written since hardware reset is its free value (R227). -/
def State.readByte (s : State) (a : Nat) : Byte :=
  (Ram.get? (n := 8) s.data a).getD (Config.powerUpByte s.powerUps a)

/-- Write `DATA[a]`. -/
def State.writeByte (s : State) (a : Nat) (b : Byte) : State := { s with data := Ram.set (n := 8) s.data a b }

/-- `MemRead(addr, n)` (spec/00_scope R11): the bytes at `addr` to `addr + n - 1`. -/
def State.memRead (s : State) (addr : Nat) : Nat → List Byte
  | 0 => []
  | n + 1 => s.readByte addr :: s.memRead (addr + 1) n

/-- `MemWrite(addr, n, bs)` (spec/00_scope R11): the bytes `bs` at `addr` on. -/
def State.memWrite (s : State) (addr : Nat) : List Byte → State
  | [] => s
  | b :: bs => (s.writeByte addr b).memWrite (addr + 1) bs

/-- The value of a list of bytes, first byte most significant, on top of `acc`. -/
def beValue (acc : Nat) : List Byte → Nat
  | [] => acc
  | b :: bs => beValue (acc * 256 + b.toNat) bs

/-- `be256` (spec/00_scope R10): the first byte is the most significant. -/
def be256 (bs : List Byte) : Word := BitVec.ofNat 256 (beValue 0 bs)

/-- The low `n` bytes of `v`, most significant first. -/
def beBytes (v : Nat) : Nat → List Byte
  | 0 => []
  | n + 1 => BitVec.ofNat 8 (v / 256 ^ n) :: beBytes v n

/-- `bytes_be` (spec/00_scope R10): the 32 bytes of a value, most significant first. -/
def bytesBe (v : Word) : List Byte := beBytes v.toNat 32

/-! ### Registers (spec/00_scope R11) -/

/-- VALID_V bit `i` (spec/10_state R102). -/
def State.vValid (s : State) (i : VReg) : Bool := s.validV.getLsbD i.toNat

/-- The contents of V register `i`, valid or not. -/
def State.vReg (s : State) (i : VReg) : Word := s.v[i.toNat]'i.isLt

/-- Read `V[i]`: E_UNINIT if its valid bit is 0 (spec/10_state R102). -/
def State.readV (s : State) (i : VReg) : Except Exc Word := if s.vValid i then .ok (s.vReg i) else .error .uninit

/-- `V[i] <- x`, which sets the valid bit (spec/10_state R102). -/
def State.writeV (s : State) (i : VReg) (x : Word) : State :=
  { s with v := s.v.set i.toNat x i.isLt, validV := s.validV ||| BitVec.twoPow 16 i.toNat }

/-- VALID_P bit `i` (spec/10_state R112). -/
def State.qValid (s : State) (i : QReg) : Bool := s.validP.getLsbD i.toNat

/-- The contents of Q register `i`, valid or not. -/
def State.qReg (s : State) (i : QReg) : Point := s.q[i.toNat]'i.isLt

/-- Read `Q[i]`: E_UNINIT if its valid bit is 0 (spec/10_state R112). -/
def State.readQ (s : State) (i : QReg) : Except Exc Point := if s.qValid i then .ok (s.qReg i) else .error .uninit

/-- `Q[i] <- pt`, which sets the valid bit (spec/10_state R112). -/
def State.writeQ (s : State) (i : QReg) (pt : Point) : State :=
  { s with q := s.q.set i.toNat pt i.isLt, validP := s.validP ||| BitVec.twoPow 16 i.toNat }

/-- Read `M`: E_UNINIT if VALID_M is 0 (spec/10_state R121). -/
def State.readM (s : State) : Except Exc Word := if s.validM then .ok s.m else .error .uninit

/-- `M <- x; VALID_M <- 1` (spec/43_data_movement R705). -/
def State.writeM (s : State) (x : Word) : State := { s with m := x, validM := true }

/-- `F <- b` (spec/10_state R125). -/
def State.setF (s : State) (b : Bool) : State := { s with f := b }

/-! ### The program counter (spec/10_state R131, R132) -/

/-- `pc <- pc + 1`, the default next pc. -/
def State.advance (s : State) : State := { s with pc := s.pc + 1#9 }

/-- `pc <- target`, a command-RAM index 0 to 255 (spec/44_control R802). -/
def State.jump (s : State) (target : BitVec 8) : State := { s with pc := target.setWidth 9 }

/-! ### Exceptions (spec/60_exceptions) -/

/-- The exception codes (R901). -/
def Exc.code : Exc → BitVec 4
  | .illegal => 1#4
  | .fetch => 2#4
  | .uninit => 3#4
  | .modulus => 4#4
  | .noInverse => 5#4
  | .invalidPoint => 6#4
  | .invalidEncoding => 7#4
  | .infinity => 8#4

/-- TAKING AN EXCEPTION (R920): the code, pc and fetched word are recorded, the run ends in FAULT and the interrupt is
pending; pc and everything else stay. -/
def State.raise (s : State) (e : Exc) (w : CmdWord) : State :=
  { s with cause := e.code, faultPc := s.pc, faultInstr := w, runState := .fault, irqPending := true }

/-- The end of a run by HALT (spec/44_control R801): DONE, interrupt pending, pc kept. -/
def State.halted (s : State) : State := { s with runState := .done, irqPending := true }

/-- What an instruction answers: its next state, or the exception it raised in state `s`, which wrote nothing
(R920, R921). The fetched word is the encoding of the instruction: no other word decodes to it (log 8). -/
def State.finish (s : State) (i : Instr) : Except Exc State → Host.Outcome State Fault Refusal
  | .ok t => .next t
  | .error e => .next (s.raise e (encode i))

/-- The interrupt output (R930). -/
def State.irq (s : State) : Bool := s.irqPending && s.ie

/-! ### GO and the resets -/

/-- GO in a state other than BUSY (spec/10_state R151): the start of a run, and the only way out of FAULT besides a reset
(spec/60_exceptions R922). -/
def State.go (s : State) : State :=
  { s with
    pc := s.startPc.setWidth 9
    f := false
    cause := 0#4
    faultPc := 0#9
    faultInstr := 0#32
    runState := .busy
    trail := [s.startPc.setWidth 9] }

/-- Soft reset (spec/70_reset R1001): every register as after hardware reset, both RAMs unchanged; the model's own counters
and the moves still to come go on (log 3, 6, 7). -/
def State.softReset (s : State) : State :=
  { State.reset with
    cmd := s.cmd
    data := s.data
    schedule := s.schedule
    stream := s.stream
    resp := s.resp
    draws := s.draws
    powerUps := s.powerUps }

/-- Hardware reset (spec/70_reset R1000): every piece of state to its reset value, the RAM contents drawn anew (R227,
log 12); the moves still to come and the count of draws go on. -/
def State.hardReset (s : State) : State :=
  { State.reset with
    schedule := s.schedule
    stream := s.stream
    draws := s.draws
    powerUps := s.powerUps + 1 }

end Sys2Proof.Machine
end

