-- ==== Sys2Proof/Machine/Flags.lean ====
section
/-! DEFINITION. The values written to the condition flag F (spec/10_state R125): by CMPGE (spec/40_modular_arith R460) and
by PTINF (spec/41_point_ops R515). No other instruction writes F. -/

namespace Sys2Proof.Machine

/-- F after CMPGE: the unsigned 256-bit comparison `x ≥ y` (R460). -/
def geFlag (x y : Word) : Bool := decide (y.toNat ≤ x.toNat)

/-- F after PTINF: whether the point is infinity (R515). -/
def infFlag (pt : Point) : Bool := decide (pt = .inf)

end Sys2Proof.Machine
end

