-- ==== Sys2Proof/Machine/Operands.lean ====
section
/-! DEFINITION. The operand forms that are no plain register (spec/30_encoding R311): the modulus selected by ms
(spec/10_state R122) and its check (spec/40_modular_arith R422), the immediate, the slot address and the constant of a
cid (spec/43_data_movement R703). -/

namespace Sys2Proof.Machine

/-- `modval(ms)` (spec/10_state R122). ms = 3 is no operand: such a word is illegal (spec/30_encoding R322; log 9). -/
def State.modval (s : State) (ms : BitVec 2) : Except Exc Word :=
  if ms = 0#2 then .ok (BitVec.ofNat 256 primeP)
  else if ms = 1#2 then .ok (BitVec.ofNat 256 orderN)
  else if ms = 2#2 then s.readM
  else .error .illegal

/-- `modcheck(ms, m)` (spec/40_modular_arith R422): E_MODULUS for ms = 2 and M even or below 3. -/
def modcheck (ms : BitVec 2) (m : Word) : Except Exc Unit :=
  if ms = 2#2 ∧ (m.toNat % 2 = 0 ∨ m.toNat < 3) then .error .modulus else .ok ()

/-- `zext_256(imm12)` (spec/30_encoding R311). -/
def immValue (imm : BitVec 12) : Word := imm.setWidth 256

/-- The data-RAM byte address of a slot, `32 · slot` (spec/30_encoding R311). -/
def slotAddr (slot : BitVec 7) : Nat := 32 * slot.toNat

/-- The curve-constant ROM (spec/10_state R140), cid 0 to 5. -/
def rom (cid : Nat) : Word :=
  match cid with
  | 0 => BitVec.ofNat 256 curveA
  | 1 => BitVec.ofNat 256 curveB
  | 2 => BitVec.ofNat 256 primeP
  | 3 => BitVec.ofNat 256 orderN
  | 4 => BitVec.ofNat 256 genX
  | _ => BitVec.ofNat 256 genY

/-- The constant of a cid (spec/43_data_movement R703): the ROM for 0 to 5, M for 6. cid 7 to 15 is no operand: such a
word is illegal (spec/30_encoding R322; log 9). -/
def State.constant (s : State) (cid : BitVec 4) : Except Exc Word :=
  if cid.toNat ≤ 5 then .ok (rom cid.toNat)
  else if cid.toNat = 6 then s.readM
  else .error .illegal

end Sys2Proof.Machine
end

