-- ==== Sys2Proof/Machine/Arith.lean ====
section
/-! DEFINITION. Modular arithmetic: MADD, MSUB, MMUL, MINV, CMPGE (spec/40_modular_arith). Every meaning reads all its
sources, then checks, then writes (spec/00_scope R11). -/

namespace Sys2Proof.Machine

/-- The result of MADD (R400): the raw 256-bit sum, less the modulus once if the sum carried out or reached it. The
difference is taken modulo W. -/
def maddValue (a b m : Word) : Word :=
  let s := a.toNat + b.toNat
  let raw := s % W
  if W ≤ s ∨ m.toNat ≤ raw then BitVec.ofNat 256 ((raw + (W - m.toNat)) % W) else BitVec.ofNat 256 raw

/-- The result of MSUB (R410): the raw 256-bit difference, plus the modulus once if a borrow escaped, the carry
discarded. -/
def msubValue (a b m : Word) : Word :=
  let raw := (a.toNat + (W - b.toNat)) % W
  if a.toNat < b.toNat then BitVec.ofNat 256 ((raw + m.toNat) % W) else BitVec.ofNat 256 raw

/-- The result of MMUL (R420): the 512-bit product, fully reduced. -/
def mmulValue (a b m : Word) : Word := BitVec.ofNat 256 (a.toNat * b.toNat % m.toNat)

/-- The result of MINV (R440): the operand reduced, then its inverse; E_NO_INVERSE if it has none. -/
def minvValue (a m : Word) : Except Exc Word :=
  match modInverse (a.toNat % m.toNat) m.toNat with
  | some c => .ok (BitVec.ofNat 256 c)
  | none => .error .noInverse

/-- MADD (R400). Every modulus is accepted. -/
def execMadd (ms : BitVec 2) (rd rs1 rs2 : VReg) (s : State) : Host.Outcome State Fault Refusal :=
  s.finish (.madd ms rd rs1 rs2) do
    let m ← s.modval ms
    let a ← s.readV rs1
    let b ← s.readV rs2
    pure (s.writeV rd (maddValue a b m)).advance

/-- MSUB (R410). Every modulus is accepted. -/
def execMsub (ms : BitVec 2) (rd rs1 rs2 : VReg) (s : State) : Host.Outcome State Fault Refusal :=
  s.finish (.msub ms rd rs1 rs2) do
    let m ← s.modval ms
    let a ← s.readV rs1
    let b ← s.readV rs2
    pure (s.writeV rd (msubValue a b m)).advance

/-- MMUL (R420): E_UNINIT, then E_MODULUS. -/
def execMmul (ms : BitVec 2) (rd rs1 rs2 : VReg) (s : State) : Host.Outcome State Fault Refusal :=
  s.finish (.mmul ms rd rs1 rs2) do
    let m ← s.modval ms
    let a ← s.readV rs1
    let b ← s.readV rs2
    modcheck ms m
    pure (s.writeV rd (mmulValue a b m)).advance

/-- MINV (R440): E_UNINIT, then E_MODULUS, then E_NO_INVERSE. -/
def execMinv (ms : BitVec 2) (rd rs1 : VReg) (s : State) : Host.Outcome State Fault Refusal :=
  s.finish (.minv ms rd rs1) do
    let m ← s.modval ms
    let a ← s.readV rs1
    modcheck ms m
    let r ← minvValue a m
    pure (s.writeV rd r).advance

/-- CMPGE (R460): F is 1 exactly when the first operand is at least the second. -/
def execCmpge (rs1 rs2 : VReg) (s : State) : Host.Outcome State Fault Refusal :=
  s.finish (.cmpge rs1 rs2) do
    let x ← s.readV rs1
    let y ← s.readV rs2
    pure (s.setF (geFlag x y)).advance

end Sys2Proof.Machine
end

