-- ==== Sys2Proof/Machine/Control.lean ====
section
/-! DEFINITION. Control transfer: NOP, HALT, J, BF, BNF (spec/44_control). -/

namespace Sys2Proof.Machine

/-- NOP (R800). -/
def execNop (s : State) : Host.Outcome State Fault Refusal := .next s.advance

/-- HALT (R801). -/
def execHalt (s : State) : Host.Outcome State Fault Refusal := .next s.halted

/-- J (R802). -/
def execJ (target : BitVec 8) (s : State) : Host.Outcome State Fault Refusal := .next (s.jump target)

/-- BF (R803). -/
def execBf (target : BitVec 8) (s : State) : Host.Outcome State Fault Refusal :=
  .next (if s.f then s.jump target else s.advance)

/-- BNF (R804). -/
def execBnf (target : BitVec 8) (s : State) : Host.Outcome State Fault Refusal :=
  .next (if s.f then s.advance else s.jump target)

end Sys2Proof.Machine
end

