-- ==== Sys2Proof/Machine/Move.lean ====
section
/-! DEFINITION. Data movement: LDV, STV, LDI, LDC, MOV, SETM (spec/43_data_movement). -/

namespace Sys2Proof.Machine

/-- LDV (R700): the 32 bytes of the slot, big-endian, with no range check. -/
def execLdv (rd : VReg) (slot : BitVec 7) (s : State) : Host.Outcome State Fault Refusal :=
  s.finish (.ldv rd slot) (.ok (s.writeV rd (be256 (s.memRead (slotAddr slot) 32))).advance)

/-- STV (R701): the 32 bytes of the value, most significant at the lowest address. -/
def execStv (rs1 : VReg) (slot : BitVec 7) (s : State) : Host.Outcome State Fault Refusal :=
  s.finish (.stv rs1 slot) do
    let x ← s.readV rs1
    pure (s.memWrite (slotAddr slot) (bytesBe x)).advance

/-- LDI (R702). -/
def execLdi (rd : VReg) (imm : BitVec 12) (s : State) : Host.Outcome State Fault Refusal :=
  s.finish (.ldi rd imm) (.ok (s.writeV rd (immValue imm)).advance)

/-- LDC (R703). -/
def execLdc (rd : VReg) (cid : BitVec 4) (s : State) : Host.Outcome State Fault Refusal :=
  s.finish (.ldc rd cid) do
    let x ← s.constant cid
    pure (s.writeV rd x).advance

/-- MOV (R704). -/
def execMov (rd rs1 : VReg) (s : State) : Host.Outcome State Fault Refusal :=
  s.finish (.mov rd rs1) do
    let x ← s.readV rs1
    pure (s.writeV rd x).advance

/-- SETM (R705): every value is accepted. -/
def execSetm (rs1 : VReg) (s : State) : Host.Outcome State Fault Refusal :=
  s.finish (.setm rs1) do
    let x ← s.readV rs1
    pure (s.writeM x).advance

end Sys2Proof.Machine
end

