-- ==== Sys2Proof/Machine/Points.lean ====
section
/-! DEFINITION. Point registers and the point adder: MKPT, MKINF, PMOV, PTX, PTY, PTINF, PADD, PDBL
(spec/41_point_ops). -/

namespace Sys2Proof.Machine

/-- The check of MKPT (R510): E_INVALID_ENCODING for a coordinate not below P, then E_INVALID_POINT off the curve. -/
def makePoint (x y : Word) : Except Exc Point :=
  if primeP ≤ x.toNat ∨ primeP ≤ y.toNat then .error .invalidEncoding
  else if y.toNat * y.toNat % primeP ≠ (x.toNat * x.toNat * x.toNat + curveB) % primeP then .error .invalidPoint
  else .ok (.aff x y)

/-- The defensive check of PDBL, PADD and PMUL: E_INVALID_POINT for a source that is no valid point (R520, R521). -/
def checkPt (pt : Point) : Except Exc Unit := if validPt pt then .ok () else .error .invalidPoint

/-- The x-coordinate; E_INFINITY for infinity (R513). -/
def pointX : Point → Except Exc Word
  | .inf => .error .infinity
  | .aff x _ => .ok x

/-- The y-coordinate; E_INFINITY for infinity (R514). -/
def pointY : Point → Except Exc Word
  | .inf => .error .infinity
  | .aff _ y => .ok y

/-- MKPT (R510). -/
def execMkpt (rd : QReg) (rs1 rs2 : VReg) (s : State) : Host.Outcome State Fault Refusal :=
  s.finish (.mkpt rd rs1 rs2) do
    let x ← s.readV rs1
    let y ← s.readV rs2
    let pt ← makePoint x y
    pure (s.writeQ rd pt).advance

/-- MKINF (R511). -/
def execMkinf (rd : QReg) (s : State) : Host.Outcome State Fault Refusal :=
  s.finish (.mkinf rd) (.ok (s.writeQ rd .inf).advance)

/-- PMOV (R512). -/
def execPmov (rd rs1 : QReg) (s : State) : Host.Outcome State Fault Refusal :=
  s.finish (.pmov rd rs1) do
    let pt ← s.readQ rs1
    pure (s.writeQ rd pt).advance

/-- PTX (R513). -/
def execPtx (rd : VReg) (rs1 : QReg) (s : State) : Host.Outcome State Fault Refusal :=
  s.finish (.ptx rd rs1) do
    let pt ← s.readQ rs1
    let x ← pointX pt
    pure (s.writeV rd x).advance

/-- PTY (R514). -/
def execPty (rd : VReg) (rs1 : QReg) (s : State) : Host.Outcome State Fault Refusal :=
  s.finish (.pty rd rs1) do
    let pt ← s.readQ rs1
    let y ← pointY pt
    pure (s.writeV rd y).advance

/-- PTINF (R515). -/
def execPtinf (rs1 : QReg) (s : State) : Host.Outcome State Fault Refusal :=
  s.finish (.ptinf rs1) do
    let pt ← s.readQ rs1
    pure (s.setF (infFlag pt)).advance

/-- PADD (R521). -/
def execPadd (rd rs1 rs2 : QReg) (s : State) : Host.Outcome State Fault Refusal :=
  s.finish (.padd rd rs1 rs2) do
    let p ← s.readQ rs1
    let q ← s.readQ rs2
    checkPt p
    checkPt q
    pure (s.writeQ rd (pointAdd p q)).advance

/-- PDBL (R520). -/
def execPdbl (rd rs1 : QReg) (s : State) : Host.Outcome State Fault Refusal :=
  s.finish (.pdbl rd rs1) do
    let p ← s.readQ rs1
    checkPt p
    pure (s.writeQ rd (pointDouble p)).advance

end Sys2Proof.Machine
end

