-- ==== Sys2Proof/Machine/Scalar.lean ====
section
/-! DEFINITION. Scalar multiplication: PMUL (spec/42_scalar_mult). -/

namespace Sys2Proof.Machine

/-- PMUL (R600): the scalar is reduced modulo N and never rejected. -/
def execPmul (rd rs1 : QReg) (rs2 : VReg) (s : State) : Host.Outcome State Fault Refusal :=
  s.finish (.pmul rd rs1 rs2) do
    let p ← s.readQ rs1
    let k ← s.readV rs2
    checkPt p
    pure (s.writeQ rd (scalarMul k.toNat p)).advance

end Sys2Proof.Machine
end

