-- ==== Sys2Proof/Machine/Dispatch.lean ====
section
/-! DEFINITION. One arm per instruction: what executing it does to the state (spec/30_encoding R320). `exec` does
not look at STATE: the step does (log 18). -/

namespace Sys2Proof.Machine

def exec (i : Instr) (s : State) : Host.Outcome State Fault Refusal :=
  match i with
  -- control (spec/44_control)
  | .nop => Sys2Proof.Machine.execNop s
  | .halt => Sys2Proof.Machine.execHalt s
  | .j target => Sys2Proof.Machine.execJ target s
  | .bf target => Sys2Proof.Machine.execBf target s
  | .bnf target => Sys2Proof.Machine.execBnf target s
  -- data movement (spec/43_data_movement)
  | .ldv rd slot => Sys2Proof.Machine.execLdv rd slot s
  | .stv rs1 slot => Sys2Proof.Machine.execStv rs1 slot s
  | .ldi rd imm => Sys2Proof.Machine.execLdi rd imm s
  | .ldc rd cid => Sys2Proof.Machine.execLdc rd cid s
  | .mov rd rs1 => Sys2Proof.Machine.execMov rd rs1 s
  | .setm rs1 => Sys2Proof.Machine.execSetm rs1 s
  -- modular arithmetic (spec/40_modular_arith)
  | .madd ms rd rs1 rs2 => Sys2Proof.Machine.execMadd ms rd rs1 rs2 s
  | .msub ms rd rs1 rs2 => Sys2Proof.Machine.execMsub ms rd rs1 rs2 s
  | .mmul ms rd rs1 rs2 => Sys2Proof.Machine.execMmul ms rd rs1 rs2 s
  | .minv ms rd rs1 => Sys2Proof.Machine.execMinv ms rd rs1 s
  | .cmpge rs1 rs2 => Sys2Proof.Machine.execCmpge rs1 rs2 s
  -- points (spec/41_point_ops)
  | .mkpt rd rs1 rs2 => Sys2Proof.Machine.execMkpt rd rs1 rs2 s
  | .mkinf rd => Sys2Proof.Machine.execMkinf rd s
  | .pmov rd rs1 => Sys2Proof.Machine.execPmov rd rs1 s
  | .ptx rd rs1 => Sys2Proof.Machine.execPtx rd rs1 s
  | .pty rd rs1 => Sys2Proof.Machine.execPty rd rs1 s
  | .ptinf rs1 => Sys2Proof.Machine.execPtinf rs1 s
  | .padd rd rs1 rs2 => Sys2Proof.Machine.execPadd rd rs1 rs2 s
  | .pdbl rd rs1 => Sys2Proof.Machine.execPdbl rd rs1 s
  -- scalar multiplication (spec/42_scalar_mult)
  | .pmul rd rs1 rs2 => Sys2Proof.Machine.execPmul rd rs1 rs2 s

end Sys2Proof.Machine
end

