-- ==== Sys2Proof/Machine/HostBus.lean ====
section
/-! DEFINITION. The host's transactions on the register block and the two RAMs (spec/10_state R146, R150 to R160;
spec/20_memory R205, R210, R221; the table of spec/70_reset R1012). -/

namespace Sys2Proof.Machine

/-! ### What the registers read as -/

/-- ID (R150). -/
def idWord : CmdWord := 0x534B3101#32

/-- The 2-bit code of STATE (R130). -/
def RunState.code : RunState → BitVec 2
  | .idle => 0#2
  | .busy => 1#2
  | .done => 2#2
  | .fault => 3#2

/-- A bit of a register word at position `i`. -/
def bitAt (b : Bool) (i : Nat) : CmdWord := if b then BitVec.twoPow 32 i else 0#32

/-- CTRL (R151): IE at bit 1; GO and SOFT_RESET read 0. -/
def State.ctrlWord (s : State) : CmdWord := bitAt s.ie 1

/-- STATUS (R152): STATE at [1:0], F at bit 2, IRQ_PENDING at bit 3. -/
def State.statusWord (s : State) : CmdWord := s.runState.code.setWidth 32 ||| bitAt s.f 2 ||| bitAt s.irqPending 3

/-- VALID_V (R158): VALID_V at [15:0], VALID_M at bit 16. -/
def State.validVWord (s : State) : CmdWord := s.validV.setWidth 32 ||| bitAt s.validM 16

/-- The register at offset `off` of the register block, PC as it stands (R150 to R160); a reserved offset reads 0. -/
def State.registerWord (s : State) (off : Nat) : CmdWord :=
  match off with
  | 0x000 => idWord
  | 0x004 => s.ctrlWord
  | 0x008 => s.statusWord
  | 0x00C => s.cause.setWidth 32
  | 0x010 => s.faultPc.setWidth 32
  | 0x014 => s.faultInstr
  | 0x018 => s.startPc.setWidth 32
  | 0x01C => s.pc.setWidth 32
  | 0x020 => s.validVWord
  | 0x024 => s.validP.setWidth 32
  | _ => 0#32

/-- The word of the data RAM at word index `j` as the host sees it: `DATA[4j]` at bits [31:24] (spec/20_memory R205). -/
def State.dataWord (s : State) (j : Nat) : CmdWord := BitVec.ofNat 32 (beValue 0 (s.memRead (4 * j) 4))

/-- What a read of an accepted offset returns, PC as it stands (spec/20_memory R210). While BUSY the RAMs read 0
(R221). -/
def State.windowWord (s : State) (off : Nat) : CmdWord :=
  if off < 0x1000 then s.registerWord off
  else if off < 0x1400 then
    if s.runState = .busy then 0#32 else s.cmdWord ((off - 0x1000) / 4)
  else if off < 0x2000 then 0#32
  else if off < 0x3000 then
    if s.runState = .busy then 0#32 else s.dataWord ((off - 0x2000) / 4)
  else 0#32

/-! ### Reading PC during a run (R157, spec/93 U4; log 6) -/

/-- Which entry of the trail a read of PC returns: the free choice, brought into the trail's range. -/
def State.pcChoice (s : State) : Nat := Config.pcPick s.draws % s.trail.length

/-- A read of PC while BUSY: one of the indices the run has reached since the last one the host read, which becomes the
last one the host read. -/
def State.drawPc (s : State) : BitVec 9 × State :=
  match s.trail[s.pcChoice]? with
  | some p => (p, { s with trail := s.trail.take (s.pcChoice + 1), draws := s.draws + 1 })
  | none => (s.pc, { s with draws := s.draws + 1 })

/-! ### Transactions -/

/-- An accepted read. No read has a side effect on the machine (R160); only the model's record of PC reads moves. -/
def State.hostRead (s : State) (off : Nat) : State :=
  if off = 0x01C ∧ s.runState = .busy then
    { s.drawPc.2 with resp := some ⟨s.drawPc.1.setWidth 32, false⟩ }
  else { s with resp := some ⟨s.windowWord off, false⟩ }

/-- A write of CTRL (R151): IE is stored, then SOFT_RESET, or else GO when not BUSY. -/
def State.writeCtrl (s : State) (d : CmdWord) : State :=
  let s1 := { s with ie := d.getLsbD 1 }
  if d.getLsbD 2 then s1.softReset
  else if d.getLsbD 0 ∧ s1.runState ≠ .busy then s1.go
  else s1

/-- A write of STATUS (R152): bit 3 set clears IRQ_PENDING. -/
def State.writeStatus (s : State) (d : CmdWord) : State := if d.getLsbD 3 then { s with irqPending := false } else s

/-- A write of the data-RAM word at word index `j`, the four bytes stored from the bus word (spec/20_memory R205). -/
def State.setDataWord (s : State) (j : Nat) (d : CmdWord) : State := s.memWrite (4 * j) (beBytes d.toNat 4)

/-- What a write of an accepted offset does (spec/20_memory R210). While BUSY, writes to the RAMs and to START_PC are
ignored (R221); reserved offsets and read-only registers ignore every write (R160). -/
def State.writeWindow (s : State) (off : Nat) (d : CmdWord) : State :=
  if off = 0x004 then s.writeCtrl d
  else if off = 0x008 then s.writeStatus d
  else if s.runState = .busy then s
  else if off = 0x018 then { s with startPc := d.setWidth 8 }
  else if 0x1000 ≤ off ∧ off < 0x1400 then s.setCmdWord ((off - 0x1000) / 4) d
  else if 0x2000 ≤ off ∧ off < 0x3000 then s.setDataWord ((off - 0x2000) / 4) d
  else s

/-- Only a 4-byte access at an offset divisible by 4 is accepted (R146, spec/20_memory R208). -/
def accepted (off : BitVec 14) (size : AccessSize) : Bool := decide (size = .four) && decide (off.toNat % 4 = 0)

/-- One transaction, atomic (R146). Another than an accepted one answers err = 1, data 0, and has no effect. -/
def State.transact (s : State) : Transaction → State
  | .read off size =>
    if accepted off size then s.hostRead off.toNat else { s with resp := some ⟨0#32, true⟩ }
  | .write off size d =>
    if accepted off size then { s.writeWindow off.toNat d with resp := some ⟨0#32, false⟩ }
    else { s with resp := some ⟨0#32, true⟩ }

end Sys2Proof.Machine
end

