-- ==== Sys2Proof/Machine/Cycle.lean ====
section
/-! DEFINITION. The execution cycle of the core (spec/10_state R132) and the placing of one instruction where the next
step fetches it. -/

namespace Sys2Proof.Machine

/-- After a core step: while the run goes on, its new pc joins the indices the run has reached; at its end there is no run
to read the PC of (R157, log 6). -/
def State.noteReached (s : State) : State :=
  if s.runState = .busy then { s with trail := s.pc :: s.trail } else { s with trail := [] }

/-- The state a core step leaves, with the record of reached indices brought up to date. -/
def settle : Host.Outcome State Fault Refusal → Host.Outcome State Fault Refusal
  | .next t => .next t.noteReached
  | .fault r => .fault r
  | .refused r => .refused r

/-- One step of the core on the fetched word: decode, then execute (R132); a word that decodes to nothing raises
E_ILLEGAL (spec/60_exceptions R902). -/
def State.runWord (s : State) (w : CmdWord) : Host.Outcome State Fault Refusal :=
  match decode w with
  | .ok i => exec i s
  | .error _ => .next (s.raise .illegal w)

/-- One turn of the core (R132): nothing unless STATE = BUSY (log 4); E_FETCH from pc = 256 on (log 17); otherwise fetch,
decode and execute. -/
def coreStep (s : State) : Host.Outcome State Fault Refusal :=
  if s.runState ≠ .busy then .next s
  else if 256 ≤ s.pc.toNat then settle (.next (s.raise .fetch 0#32))
  else settle (s.runWord (s.cmdWord s.pc.toNat))

/-- The moves at hand, at least one, and the stream after them: the schedule; when it is used up, the stream's next moves
of the host with the core turn that follows them, or a core turn alone where there is no stream. So the core's turn
always comes again after finitely many moves (spec/70_reset R1032; log 3). -/
def State.pending (s : State) : List Move × Option Nat :=
  match s.schedule, s.stream with
  | mv :: ms, stream => (mv :: ms, stream)
  | [], some k => (Config.hostMoves k ++ [.core], some (k + 1))
  | [], none => ([.core], none)

/-- The next move: the first of those at hand. -/
def State.nextMove (s : State) : Move := s.pending.1.head?.getD .core

/-- The state with the next move taken off those at hand. -/
def State.popMove (s : State) : State := { s with schedule := s.pending.1.tail, stream := s.pending.2 }

/-- One move of the machine: a core turn, a host transaction or a hardware reset (spec/70_reset R1000, R1014). -/
def runMove (s : State) : Move → Host.Outcome State Fault Refusal
  | .core => coreStep s
  | .bus t => .next (s.transact t)
  | .hardReset => .next s.hardReset

/-- The state `s` made to fetch `w` next: a run in progress, a core turn before every other move, and `w` in the command RAM at pc (at
START_PC where pc is past the end of the command RAM). It stands for the host's loading of the program and its GO
(log 5). -/
def State.placeWord (s : State) (w : CmdWord) : State :=
  let idx : BitVec 9 := if 256 ≤ s.pc.toNat then s.startPc.setWidth 9 else s.pc
  { s with
    cmd := Ram.set s.cmd idx.toNat w
    pc := idx
    runState := .busy
    schedule := .core :: s.schedule
    trail := [idx] }

end Sys2Proof.Machine
end

