-- ==== Sys2Proof/Machine/Step.lean ====
section
/-! DEFINITION. One step of the machine, and the placing of an instruction where the step fetches it. -/

namespace Sys2Proof.Machine

/-- One step: the next move is taken off those still to come and made (log 3). -/
def step (s : State) : Host.Outcome State Fault Refusal := runMove s.popMove s.nextMove

/-- `s` with the instruction of the table's bits `w` where step fetches its next instruction. -/
def State.withFetchWord (s : State) (nbits w : Nat) : State := s.placeWord (tableWord nbits w)

end Sys2Proof.Machine
end

