-- ==== Sys2Proof/Safety.lean ====
section
/-! DEFINITION. The terms claims are stated in: what an instruction's operands name (spec/30_encoding R310), the rows of the
decode table (R321), what states agree on, and the invariants of a safe run. -/

namespace Sys2Proof

/-! ### What an instruction names (spec/30_encoding R310, R311) -/

/-- The V register an instruction writes. -/
def Instr.vDest : Instr → Option VReg
  | .ldv rd _ | .ldi rd _ | .ldc rd _ | .mov rd _ => some rd
  | .madd _ rd _ _ | .msub _ rd _ _ | .mmul _ rd _ _ | .minv _ rd _ => some rd
  | .ptx rd _ | .pty rd _ => some rd
  | .nop | .halt | .j _ | .bf _ | .bnf _ | .stv _ _ | .setm _ | .cmpge _ _ => none
  | .mkpt _ _ _ | .mkinf _ | .pmov _ _ | .ptinf _ | .padd _ _ _ | .pdbl _ _ | .pmul _ _ _ => none

/-- The Q register an instruction writes. -/
def Instr.qDest : Instr → Option QReg
  | .mkpt rd _ _ | .mkinf rd | .pmov rd _ | .padd rd _ _ | .pdbl rd _ | .pmul rd _ _ => some rd
  | .ldv _ _ | .ldi _ _ | .ldc _ _ | .mov _ _ | .madd _ _ _ _ | .msub _ _ _ _ | .mmul _ _ _ _ => none
  | .minv _ _ _ | .ptx _ _ | .pty _ _ | .nop | .halt | .j _ | .bf _ | .bnf _ | .stv _ _ | .setm _ => none
  | .cmpge _ _ | .ptinf _ => none

/-- The V registers an instruction reads. -/
def Instr.vSources : Instr → List VReg
  | .stv rs1 _ | .mov _ rs1 | .setm rs1 | .minv _ _ rs1 => [rs1]
  | .madd _ _ rs1 rs2 | .msub _ _ rs1 rs2 | .mmul _ _ rs1 rs2 | .cmpge rs1 rs2 | .mkpt _ rs1 rs2 => [rs1, rs2]
  | .pmul _ _ rs2 => [rs2]
  | .nop | .halt | .j _ | .bf _ | .bnf _ | .ldv _ _ | .ldi _ _ | .ldc _ _ | .mkinf _ | .pmov _ _ | .ptx _ _ => []
  | .pty _ _ | .ptinf _ | .padd _ _ _ | .pdbl _ _ => []

/-- The Q registers an instruction reads. -/
def Instr.qSources : Instr → List QReg
  | .pmov _ rs1 | .ptx _ rs1 | .pty _ rs1 | .ptinf rs1 | .pdbl _ rs1 | .pmul _ rs1 _ => [rs1]
  | .padd _ rs1 rs2 => [rs1, rs2]
  | .nop | .halt | .j _ | .bf _ | .bnf _ | .ldv _ _ | .stv _ _ | .ldi _ _ | .ldc _ _ | .mov _ _ | .setm _ => []
  | .madd _ _ _ _ | .msub _ _ _ _ | .mmul _ _ _ _ | .minv _ _ _ | .cmpge _ _ | .mkpt _ _ _ | .mkinf _ => []

/-- Whether an instruction reads M: ms = 2, or LDC with cid 6 (spec/60_exceptions R904). -/
def Instr.readsM : Instr → Bool
  | .madd ms _ _ _ | .msub ms _ _ _ | .mmul ms _ _ _ | .minv ms _ _ => decide (ms = 2#2)
  | .ldc _ cid => decide (cid = 6#4)
  | .nop | .halt | .j _ | .bf _ | .bnf _ | .ldv _ _ | .stv _ _ | .ldi _ _ | .mov _ _ | .setm _ | .cmpge _ _ => false
  | .mkpt _ _ _ | .mkinf _ | .pmov _ _ | .ptx _ _ | .pty _ _ | .ptinf _ | .padd _ _ _ | .pdbl _ _ => false
  | .pmul _ _ _ => false

/-- Whether an instruction writes F: CMPGE and PTINF (spec/10_state R125). -/
def Instr.writesF : Instr → Bool
  | .cmpge _ _ | .ptinf _ => true
  | .nop | .halt | .j _ | .bf _ | .bnf _ | .ldv _ _ | .stv _ _ | .ldi _ _ | .ldc _ _ | .mov _ _ | .setm _ => false
  | .madd _ _ _ _ | .msub _ _ _ _ | .mmul _ _ _ _ | .minv _ _ _ | .mkpt _ _ _ | .mkinf _ | .pmov _ _ => false
  | .ptx _ _ | .pty _ _ | .padd _ _ _ | .pdbl _ _ | .pmul _ _ _ => false

/-- Whether an instruction writes M: SETM (spec/10_state R120). -/
def Instr.writesM : Instr → Bool
  | .setm _ => true
  | .nop | .halt | .j _ | .bf _ | .bnf _ | .ldv _ _ | .stv _ _ | .ldi _ _ | .ldc _ _ | .mov _ _ | .cmpge _ _ => false
  | .madd _ _ _ _ | .msub _ _ _ _ | .mmul _ _ _ _ | .minv _ _ _ | .mkpt _ _ _ | .mkinf _ | .pmov _ _ => false
  | .ptx _ _ | .pty _ _ | .ptinf _ | .padd _ _ _ | .pdbl _ _ | .pmul _ _ _ => false

/-- The slot an instruction stores to: STV's (spec/43_data_movement R701). -/
def Instr.storeSlot : Instr → Option (BitVec 7)
  | .stv _ slot => some slot
  | .nop | .halt | .j _ | .bf _ | .bnf _ | .ldv _ _ | .setm _ | .ldi _ _ | .ldc _ _ | .mov _ _ | .cmpge _ _ => none
  | .madd _ _ _ _ | .msub _ _ _ _ | .mmul _ _ _ _ | .minv _ _ _ | .mkpt _ _ _ | .mkinf _ | .pmov _ _ => none
  | .ptx _ _ | .pty _ _ | .ptinf _ | .padd _ _ _ | .pdbl _ _ | .pmul _ _ _ => none

/-! ### The decode table (spec/30_encoding R321) -/

/-- A row of R321: mask, match value, and the instruction whose fields are those of a word (R301); the row's extra
condition is the instruction's well-formedness. -/
structure DecodeRow where
  mask : CmdWord
  value : CmdWord
  instr : CmdWord → Instr

/-- The rows of R321, in its order. -/
def decodeRows : List DecodeRow :=
  [⟨0xFFFFFFFF#32, 0x04000000#32, fun _ => .nop⟩,
   ⟨0xFFFFFFFF#32, 0x08000000#32, fun _ => .halt⟩,
   ⟨0xFFFFFF00#32, 0x0C000000#32, fun w => .j (fieldTarget w)⟩,
   ⟨0xFFFFFF00#32, 0x10000000#32, fun w => .bf (fieldTarget w)⟩,
   ⟨0xFFFFFF00#32, 0x14000000#32, fun w => .bnf (fieldTarget w)⟩,
   ⟨0xFF0FFF80#32, 0x20000000#32, fun w => .ldv (fieldRd w) (fieldSlot w)⟩,
   ⟨0xFFF0FF80#32, 0x24000000#32, fun w => .stv (fieldRs1 w) (fieldSlot w)⟩,
   ⟨0xFF0FF000#32, 0x28000000#32, fun w => .ldi (fieldRd w) (fieldImm w)⟩,
   ⟨0xFF0FFFF0#32, 0x2C000000#32, fun w => .ldc (fieldRd w) (fieldCid w)⟩,
   ⟨0xFF00FFFF#32, 0x30000000#32, fun w => .mov (fieldRd w) (fieldRs1 w)⟩,
   ⟨0xFFF0FFFF#32, 0x34000000#32, fun w => .setm (fieldRs1 w)⟩,
   ⟨0xFC000FFF#32, 0x40000000#32, fun w => .madd (fieldMs w) (fieldRd w) (fieldRs1 w) (fieldRs2 w)⟩,
   ⟨0xFC000FFF#32, 0x44000000#32, fun w => .msub (fieldMs w) (fieldRd w) (fieldRs1 w) (fieldRs2 w)⟩] ++
  [⟨0xFC000FFF#32, 0x48000000#32, fun w => .mmul (fieldMs w) (fieldRd w) (fieldRs1 w) (fieldRs2 w)⟩,
   ⟨0xFC00FFFF#32, 0x4C000000#32, fun w => .minv (fieldMs w) (fieldRd w) (fieldRs1 w)⟩,
   ⟨0xFFF00FFF#32, 0x50000000#32, fun w => .cmpge (fieldRs1 w) (fieldRs2 w)⟩,
   ⟨0xFF000FFF#32, 0x60000000#32, fun w => .mkpt (fieldRd w) (fieldRs1 w) (fieldRs2 w)⟩,
   ⟨0xFF0FFFFF#32, 0x64000000#32, fun w => .mkinf (fieldRd w)⟩,
   ⟨0xFF00FFFF#32, 0x68000000#32, fun w => .pmov (fieldRd w) (fieldRs1 w)⟩,
   ⟨0xFF00FFFF#32, 0x6C000000#32, fun w => .ptx (fieldRd w) (fieldRs1 w)⟩,
   ⟨0xFF00FFFF#32, 0x70000000#32, fun w => .pty (fieldRd w) (fieldRs1 w)⟩,
   ⟨0xFFF0FFFF#32, 0x74000000#32, fun w => .ptinf (fieldRs1 w)⟩,
   ⟨0xFF000FFF#32, 0x80000000#32, fun w => .padd (fieldRd w) (fieldRs1 w) (fieldRs2 w)⟩,
   ⟨0xFF00FFFF#32, 0x84000000#32, fun w => .pdbl (fieldRd w) (fieldRs1 w)⟩,
   ⟨0xFF000FFF#32, 0x88000000#32, fun w => .pmul (fieldRd w) (fieldRs1 w) (fieldRs2 w)⟩]

/-- The mask of an instruction's row in R321. -/
def Instr.mask : Instr → CmdWord
  | .nop | .halt => 0xFFFFFFFF#32
  | .j _ | .bf _ | .bnf _ => 0xFFFFFF00#32
  | .ldv _ _ => 0xFF0FFF80#32
  | .stv _ _ => 0xFFF0FF80#32
  | .ldi _ _ => 0xFF0FF000#32
  | .ldc _ _ => 0xFF0FFFF0#32
  | .mov _ _ | .pmov _ _ | .ptx _ _ | .pty _ _ | .pdbl _ _ => 0xFF00FFFF#32
  | .setm _ | .ptinf _ => 0xFFF0FFFF#32
  | .madd _ _ _ _ | .msub _ _ _ _ | .mmul _ _ _ _ => 0xFC000FFF#32
  | .minv _ _ _ => 0xFC00FFFF#32
  | .cmpge _ _ => 0xFFF00FFF#32
  | .mkpt _ _ _ | .padd _ _ _ | .pmul _ _ _ => 0xFF000FFF#32
  | .mkinf _ => 0xFF0FFFFF#32

/-- The match value of an instruction's row in R321. -/
def Instr.matchValue : Instr → CmdWord
  | .nop => 0x04000000#32
  | .halt => 0x08000000#32
  | .j _ => 0x0C000000#32
  | .bf _ => 0x10000000#32
  | .bnf _ => 0x14000000#32
  | .ldv _ _ => 0x20000000#32
  | .stv _ _ => 0x24000000#32
  | .ldi _ _ => 0x28000000#32
  | .ldc _ _ => 0x2C000000#32
  | .mov _ _ => 0x30000000#32
  | .setm _ => 0x34000000#32
  | .madd _ _ _ _ => 0x40000000#32
  | .msub _ _ _ _ => 0x44000000#32
  | .mmul _ _ _ _ => 0x48000000#32
  | .minv _ _ _ => 0x4C000000#32
  | .cmpge _ _ => 0x50000000#32
  | .mkpt _ _ _ => 0x60000000#32
  | .mkinf _ => 0x64000000#32
  | .pmov _ _ => 0x68000000#32
  | .ptx _ _ => 0x6C000000#32
  | .pty _ _ => 0x70000000#32
  | .ptinf _ => 0x74000000#32
  | .padd _ _ _ => 0x80000000#32
  | .pdbl _ _ => 0x84000000#32
  | .pmul _ _ _ => 0x88000000#32

end Sys2Proof

namespace Sys2Proof.Machine

/-! ### What two states agree on -/

/-- Both RAMs read the same at every location. -/
structure SameRams (s t : State) : Prop where
  data : ∀ a, t.readByte a = s.readByte a
  cmd : ∀ i, t.cmdWord i = s.cmdWord i

/-- The record of the last fault, STATE and IRQ_PENDING: what an exception or HALT writes. -/
structure SameRunControl (s t : State) : Prop where
  runState : t.runState = s.runState
  cause : t.cause = s.cause
  faultPc : t.faultPc = s.faultPc
  faultInstr : t.faultInstr = s.faultInstr
  irqPending : t.irqPending = s.irqPending

/-- What no instruction ever writes: START_PC, IE, the command RAM, and the model's own fields. -/
structure SameHostSide (s t : State) : Prop where
  startPc : t.startPc = s.startPc
  ie : t.ie = s.ie
  cmd : t.cmd = s.cmd
  schedule : t.schedule = s.schedule
  stream : t.stream = s.stream
  resp : t.resp = s.resp
  trail : t.trail = s.trail
  draws : t.draws = s.draws
  powerUps : t.powerUps = s.powerUps

/-- What a run computes and records: every register an instruction can read or write, pc, STATE, the fault record and
the contents of both RAMs. IE, IRQ_PENDING, START_PC and the bus are left out: no instruction reads them. -/
structure SameRun (s t : State) : Prop where
  v : t.v = s.v
  validV : t.validV = s.validV
  q : t.q = s.q
  validP : t.validP = s.validP
  m : t.m = s.m
  validM : t.validM = s.validM
  f : t.f = s.f
  pc : t.pc = s.pc
  runState : t.runState = s.runState
  cause : t.cause = s.cause
  faultPc : t.faultPc = s.faultPc
  faultInstr : t.faultInstr = s.faultInstr
  cmd : t.cmd = s.cmd
  data : t.data = s.data
  powerUps : t.powerUps = s.powerUps

/-! ### Invariants -/

/-- pc holds 0 to 256 (spec/10_state R131). -/
def PcInRange (s : State) : Prop := s.pc.toNat ≤ 256

/-- The RAMs are in canonical form, so that equal contents are equal data. -/
def RamsCanonical (s : State) : Prop := Memory.wf s.data = true ∧ CmdRam.wf s.cmd = true

/-- The fault record (spec/10_state R130, R133, R153 to R155; spec/60_exceptions R901): in FAULT a code from 1 to 8 and
the pc of the fault, otherwise nothing recorded. -/
def FaultRecordCoherent (s : State) : Prop :=
  if s.runState = .fault then 1 ≤ s.cause.toNat ∧ s.cause.toNat ≤ 8 ∧ s.faultPc = s.pc
  else s.cause = 0#4 ∧ s.faultPc = 0#9 ∧ s.faultInstr = 0#32

/-- IDLE holds only between a reset and the first GO (spec/10_state R130), so nothing has been computed. -/
def IdleIsReset (s : State) : Prop :=
  s.runState = .idle →
    s.validV = 0#16 ∧ s.validP = 0#16 ∧ s.validM = false ∧ s.f = false ∧ s.pc = 0#9 ∧ s.irqPending = false

/-- The record of reached indices (the model's own field, log 6): while BUSY it begins with pc and holds indices 0 to
256, and it is empty otherwise. -/
def TrailCoherent (s : State) : Prop :=
  if s.runState = .busy then s.trail.head? = some s.pc ∧ ∀ p ∈ s.trail, p.toNat ≤ 256 else s.trail = []

/-- The control invariant: everything but the points. -/
structure ControlInv (s : State) : Prop where
  pcInRange : PcInRange s
  ramsCanonical : RamsCanonical s
  faultRecord : FaultRecordCoherent s
  idle : IdleIsReset s
  trail : TrailCoherent s

/-- Every Q register whose valid bit is 1 holds infinity or a point on the curve (spec/10_state R111). -/
def PointsValid (s : State) : Prop := ∀ r : QReg, s.qValid r = true → validPt (s.qReg r) = true

/-- A safe state: both invariants hold. -/
structure Inv (s : State) : Prop where
  control : ControlInv s
  points : PointsValid s

/-! ### The field -/

/-- A coordinate as an element of the field modulo P (spec/00_scope R13). -/
def fieldOf (x : Word) : ZMod primeP := (x.toNat : ZMod primeP)

/-! ### The moves -/

/-- A write of CTRL that is accepted (spec/10_state R146, R151). -/
def Move.isCtrlWrite (mv : Move) (d : CmdWord) : Prop := mv = .bus (.write 0x004#14 .four d)

/-- Whether a move resets the machine: hardware reset, or a write of CTRL with SOFT_RESET (spec/70_reset R1000, R1001). -/
def Move.isReset : Move → Bool
  | .hardReset => true
  | .bus (.write off size d) => decide (off = 0x004#14) && decide (size = .four) && d.getLsbD 2
  | .core | .bus (.read _ _) => false

end Sys2Proof.Machine
end

