-- ==== Sys2Proof/Certificates/Slice0/Obligations.lean ====
section
/-! DEFINITION. The statements for the provers. Each docstring names the rule of spec/ it formalises. A statement that
speaks of RAM not yet written, or of a PC read during a run, holds for every value of the free values
(`Config.powerUpByte`, `Config.powerUpWord`, `Config.pcPick`); a statement on `step` holds for every order of the moves, finite
or endless (`State.schedule`, `State.stream`, `Config.hostMoves`). -/

open Sys2Proof Sys2Proof.Machine

/-! ## Encoding (spec/30_encoding) -/

/-- Decoding and encoding are inverse: decoding the word of a well-formed instruction gives it back, every operand at
every value, and a word that decodes to an instruction is that instruction's one encoding, the instruction being well
formed (R302, R321). -/
def Obligations.DecodeEncodeInverse : Prop :=
  (∀ i : Instr, i.WellFormed = true → decode (encode i) = .ok i) ∧
  (∀ (w : CmdWord) (i : Instr), decode w = .ok i → i.WellFormed = true ∧ encode i = w)

/-- R321: decode answers the instruction of the row whose mask and match value the word meets together with the extra
condition; at most one row's mask and match value can be met; a word that meets no row raises E_ILLEGAL. -/
def Obligations.DecodeIsTheTable : Prop :=
  (∀ (w : CmdWord) (i : Instr),
    decode w = .ok i ↔ ∃ r ∈ decodeRows, w &&& r.mask = r.value ∧ r.instr w = i ∧ i.WellFormed = true) ∧
  (∀ w : CmdWord, ∀ r ∈ decodeRows, ∀ r' ∈ decodeRows,
    w &&& r.mask = r.value → w &&& r'.mask = r'.value → r.value = r'.value) ∧
  (∀ (s : State) (w : CmdWord),
    (∀ r ∈ decodeRows, ¬ (w &&& r.mask = r.value ∧ (r.instr w).WellFormed = true)) →
      s.runWord w = .next (s.raise .illegal w))

/-- R322: the illegal words are exactly those of its five items, and executing one raises E_ILLEGAL with FAULT_INSTR the
word and FAULT_PC the pc. -/
def Obligations.IllegalWords : Prop :=
  (∀ w : CmdWord, (∃ why, decode w = .error why) ↔
    (fieldOp w = 0#6 ∨
     ((fieldOp w).toNat ∈ [0x06, 0x07, 0x0E, 0x0F, 0x15, 0x16, 0x17, 0x1E, 0x1F] ∨ 0x23 ≤ (fieldOp w).toNat) ∨
     (∃ r ∈ decodeRows, fieldOp r.value = fieldOp w ∧ w &&& r.mask ≠ r.value) ∨
     ((fieldOp w).toNat ∈ [0x10, 0x11, 0x12, 0x13] ∧ fieldMs w = 3#2) ∨
     (fieldOp w = 0x0B#6 ∧ 7 ≤ (fieldCid w).toNat))) ∧
  (∀ s : State, s.nextMove = .core → s.runState = .busy → s.pc.toNat < 256 →
    (∃ why, decode (s.cmdWord s.pc.toNat) = .error why) →
      ∃ t, step s = .next t ∧ t.runState = .fault ∧ t.cause = 1#4 ∧ t.faultInstr = s.cmdWord s.pc.toNat ∧
        t.faultPc = s.pc)

/-- Thirteen words written out from the bit diagrams of R302, one of each format (spec/95_test_vectors 3.1). -/
def Obligations.SampleWordsDecode : Prop :=
  decode 0x04000000#32 = .ok .nop ∧
  decode 0x0C0000FF#32 = .ok (.j 255#8) ∧
  decode 0x2000007F#32 = .ok (.ldv 0#4 127#7) ∧
  decode 0x2401007F#32 = .ok (.stv 1#4 127#7) ∧
  decode 0x28F00FFF#32 = .ok (.ldi 15#4 4095#12) ∧
  decode 0x2C000006#32 = .ok (.ldc 0#4 6#4) ∧
  decode 0x64F00000#32 = .ok (.mkinf 15#4) ∧
  decode 0x340F0000#32 = .ok (.setm 15#4) ∧
  decode 0x68510000#32 = .ok (.pmov 5#4 1#4) ∧
  decode 0x88112000#32 = .ok (.pmul 1#4 1#4 2#4) ∧
  decode 0x50045000#32 = .ok (.cmpge 4#4 5#4) ∧
  decode 0x49987000#32 = .ok (.mmul 1#2 9#4 8#4 7#4) ∧
  decode 0x4D870000#32 = .ok (.minv 1#2 8#4 7#4)

/-! ## The execution cycle (spec/10_state R130 to R133) -/

/-- A step runs the decoded instruction (R132): in a run, on the core's turn, when the word at pc decodes to `i`, the step
is `exec i` on the state whose moves still to come have gone on by one, with the record of reached indices (the model's own
field, log 6) brought up to date. A core turn outside BUSY changes nothing: the core executes nothing until GO (R180; the
turn itself is the model's, log 4). A step on the host's turn is its transaction. Which move comes next (R1014) is the
model's to hold (log 3): the first of the schedule, whatever it lists; when that is used up, the free list
`Config.hostMoves k` and a core turn are the schedule, for each k in turn, or the core's turn comes for ever. -/
def Obligations.StepRunsDecodedInstruction : Prop :=
  (∀ (s : State) (i : Instr), s.nextMove = .core → s.runState = .busy → s.pc.toNat < 256 →
    decode (s.cmdWord s.pc.toNat) = .ok i →
      step s = match exec i s.popMove with
        | .next t => .next { t with trail := if t.runState = .busy then t.pc :: t.trail else [] }
        | .fault r => .fault r
        | .refused r => .refused r) ∧
  (∀ s : State, s.nextMove = .core → s.runState ≠ .busy → step s = .next s.popMove) ∧
  (∀ (s : State) (x : Transaction), s.nextMove = .bus x → step s = .next (s.popMove.transact x)) ∧
  (∀ (s : State) (mv : Move) (ms : List Move), s.schedule = mv :: ms →
    s.nextMove = mv ∧ s.popMove = { s with schedule := ms }) ∧
  (∀ (s : State) (k : Nat), s.schedule = [] → s.stream = some k →
    ∃ mv ms, Config.hostMoves k ++ [.core] = mv :: ms ∧ s.nextMove = mv ∧
      s.popMove = { s with schedule := ms, stream := some (k + 1) }) ∧
  (∀ s : State, s.schedule = [] → s.stream = none → s.nextMove = .core ∧ s.popMove = s)

/-- Every step answers a next state: no step of this machine is stuck or refused. Within a run this is what R603, R1032 and
R323 say, an exception being a next state as the interface has it (log 16). A core turn outside a run, for which R132
gives no step, answers a next state by the model's choice (log 4). And the core always eventually takes its next step
(R1032): from every state, whatever moves are to come, a finite number of steps leads to a state in which it is the core's
turn. That holds for every value of `Config.hostMoves`, by the way the model holds the moves (log 3). -/
def Obligations.StepAlwaysAnswers : Prop :=
  (∀ s : State, ∃ t, step s = .next t) ∧
  ∀ s : State, ∃ (n : Nat) (t : State), Sys2Proof.core.run n s = .next t ∧ t.nextMove = .core

/-- R903: a step that begins with pc = 256 raises E_FETCH with FAULT_PC = 256 and FAULT_INSTR = 0, and pc = 256 is reached
only by sequential advance past index 255. -/
def Obligations.FetchPastEnd : Prop :=
  (∀ s : State, s.nextMove = .core → s.runState = .busy → s.pc = 256#9 →
    ∃ t, step s = .next t ∧ t.runState = .fault ∧ t.cause = 2#4 ∧ t.faultPc = 256#9 ∧ t.faultInstr = 0#32) ∧
  (∀ s t : State, step s = .next t → t.pc = 256#9 → s.pc ≠ 256#9 →
    s.pc = 255#9 ∧ s.runState = .busy ∧ s.nextMove = .core)

/-- R133: HALT leaves pc at its index; an exception leaves pc, and FAULT_PC holds the same value; outside BUSY only GO and
a reset change pc. -/
def Obligations.WherePcStands : Prop :=
  (∀ s t : State, s.nextMove = .core → s.runState = .busy → step s = .next t → t.runState = .done → t.pc = s.pc) ∧
  (∀ s t : State, s.nextMove = .core → s.runState = .busy → step s = .next t → t.runState = .fault →
    t.pc = s.pc ∧ t.faultPc = s.pc) ∧
  (∀ s t : State, s.runState ≠ .busy → step s = .next t → t.pc ≠ s.pc →
    s.nextMove.isReset = true ∨
    (t.runState = .busy ∧ ∃ d : CmdWord, s.nextMove.isCtrlWrite d ∧ d.getLsbD 0 = true))

/-- What changes STATE (R130): GO, HALT, an exception, or a reset, and nothing else. -/
def Obligations.RunStateTransitions : Prop :=
  ∀ s t : State, step s = .next t → t.runState ≠ s.runState →
    (t.runState = .busy ∧ ∃ d : CmdWord, s.nextMove.isCtrlWrite d ∧ d.getLsbD 0 = true ∧ d.getLsbD 2 = false) ∨
    (s.runState = .busy ∧ t.runState = .done ∧ s.nextMove = .core ∧ decode (s.cmdWord s.pc.toNat) = .ok .halt) ∨
    (s.runState = .busy ∧ t.runState = .fault ∧ s.nextMove = .core) ∨
    (t.runState = .idle ∧ s.nextMove.isReset = true)

/-! ## Control transfer (spec/44_control) -/

/-- NOP, HALT, J, BF and BNF complete in every state, with exactly these writes (R800 to R804). -/
def Obligations.ControlTransferResults : Prop :=
  ∀ (s : State) (target : BitVec 8),
    exec .nop s = .next { s with pc := s.pc + 1#9 } ∧
    exec .halt s = .next { s with runState := .done, irqPending := true } ∧
    exec (.j target) s = .next { s with pc := target.setWidth 9 } ∧
    exec (.bf target) s = .next { s with pc := if s.f = true then target.setWidth 9 else s.pc + 1#9 } ∧
    exec (.bnf target) s = .next { s with pc := if s.f = false then target.setWidth 9 else s.pc + 1#9 }

/-! ## Data movement (spec/43_data_movement) -/

/-- LDV completes in every state: byte `k` of the slot is byte `k` of the value, the first most significant, and nothing
but the register, its valid bit and pc changes (R700, R204). -/
def Obligations.LdvLoadsBigEndian : Prop :=
  ∀ (rd : VReg) (slot : BitVec 7) (s : State),
    ∃ x : Word, exec (.ldv rd slot) s = .next (s.writeV rd x).advance ∧
      ∀ k, k < 32 → x.toNat / 256 ^ (31 - k) % 256 = (s.readByte (32 * slot.toNat + k)).toNat

/-- STV with a valid source completes: byte `k` of the slot becomes byte `k` of the value, every byte outside the slot
keeps its value, and nothing but the data RAM and pc changes (R701, R204). -/
def Obligations.StvStoresBigEndian : Prop :=
  ∀ (rs1 : VReg) (slot : BitVec 7) (s : State), s.vValid rs1 = true →
    ∃ t, exec (.stv rs1 slot) s = .next t ∧
      (∀ k, k < 32 → (t.readByte (32 * slot.toNat + k)).toNat = (s.vReg rs1).toNat / 256 ^ (31 - k) % 256) ∧
      (∀ a, (a < 32 * slot.toNat ∨ 32 * slot.toNat + 32 ≤ a) → t.readByte a = s.readByte a) ∧
      t.pc = s.pc + 1#9 ∧ { t with data := s.data, pc := s.pc } = s

/-- LDI, MOV and SETM: what they write (R702, R704, R705). -/
def Obligations.ImmediateCopyAndModulus : Prop :=
  (∀ (rd : VReg) (imm : BitVec 12) (s : State),
    exec (.ldi rd imm) s = .next (s.writeV rd (BitVec.ofNat 256 imm.toNat)).advance) ∧
  (∀ (rd rs1 : VReg) (s : State), s.vValid rs1 = true →
    exec (.mov rd rs1) s = .next (s.writeV rd (s.vReg rs1)).advance) ∧
  (∀ (rs1 : VReg) (s : State), s.vValid rs1 = true →
    exec (.setm rs1) s = .next { s with m := s.vReg rs1, validM := true, pc := s.pc + 1#9 })

/-- LDC: the six ROM constants with their values of spec/10_state R140, and M when it is valid (R703). -/
def Obligations.LdcConstants : Prop :=
  ∀ (rd : VReg) (s : State),
    exec (.ldc rd 0#4) s = .next (s.writeV rd 0#256).advance ∧
    exec (.ldc rd 1#4) s = .next (s.writeV rd 7#256).advance ∧
    exec (.ldc rd 2#4) s =
      .next (s.writeV rd 0xFFFFFFFFFFFFFFFFFFFFFFFFFFFFFFFFFFFFFFFFFFFFFFFFFFFFFFFEFFFFFC2F#256).advance ∧
    exec (.ldc rd 3#4) s =
      .next (s.writeV rd 0xFFFFFFFFFFFFFFFFFFFFFFFFFFFFFFFEBAAEDCE6AF48A03BBFD25E8CD0364141#256).advance ∧
    exec (.ldc rd 4#4) s =
      .next (s.writeV rd 0x79BE667EF9DCBBAC55A06295CE870B07029BFCDB2DCE28D959F2815B16F81798#256).advance ∧
    exec (.ldc rd 5#4) s =
      .next (s.writeV rd 0x483ADA7726A3C4655DA4FBFC0E1108A8FD17B448A68554199C47D08FFB10D4B8#256).advance ∧
    (s.validM = true → exec (.ldc rd 6#4) s = .next (s.writeV rd s.m).advance)

/-! ## Modular arithmetic (spec/40_modular_arith) -/

/-- MADD completes for every modulus and operands, canonical or not: the sum, less the modulus once, modulo 2^256, if it
reached the modulus (R400). And the modulus that ms selects, in this and every statement on arithmetic below: 0 is P, 1 is
N, 2 is M where VALID_M is 1 and E_UNINIT where it is 0 (R122; the values of P and N are those of R140). -/
def Obligations.MaddResult : Prop :=
  (∀ (ms : BitVec 2) (rd rs1 rs2 : VReg) (s : State) (m : Word), s.modval ms = .ok m →
    s.vValid rs1 = true → s.vValid rs2 = true →
      ∃ x : Word, exec (.madd ms rd rs1 rs2) s = .next (s.writeV rd x).advance ∧
        x.toNat =
          if m.toNat ≤ (s.vReg rs1).toNat + (s.vReg rs2).toNat then
            ((s.vReg rs1).toNat + (s.vReg rs2).toNat - m.toNat) % 2 ^ 256
          else (s.vReg rs1).toNat + (s.vReg rs2).toNat) ∧
  (∀ s : State, s.modval 0#2 = .ok 0xFFFFFFFFFFFFFFFFFFFFFFFFFFFFFFFFFFFFFFFFFFFFFFFFFFFFFFFEFFFFFC2F#256) ∧
  (∀ s : State, s.modval 1#2 = .ok 0xFFFFFFFFFFFFFFFFFFFFFFFFFFFFFFFEBAAEDCE6AF48A03BBFD25E8CD0364141#256) ∧
  (∀ s : State, s.validM = true → s.modval 2#2 = .ok s.m) ∧
  (∀ s : State, s.validM = false → s.modval 2#2 = .error .uninit)

/-- R401: for canonical operands MADD's result is the sum modulo the modulus, and canonical. -/
def Obligations.MaddCanonical : Prop :=
  ∀ (ms : BitVec 2) (rd rs1 rs2 : VReg) (s : State) (m : Word), s.modval ms = .ok m →
    s.vValid rs1 = true → s.vValid rs2 = true →
    (s.vReg rs1).toNat < m.toNat → (s.vReg rs2).toNat < m.toNat →
      ∃ x : Word, exec (.madd ms rd rs1 rs2) s = .next (s.writeV rd x).advance ∧
        x.toNat = ((s.vReg rs1).toNat + (s.vReg rs2).toNat) % m.toNat ∧ x.toNat < m.toNat

/-- MSUB completes for every modulus and operands: the difference, plus the modulus once, modulo 2^256, if a borrow
escaped (R410). -/
def Obligations.MsubResult : Prop :=
  ∀ (ms : BitVec 2) (rd rs1 rs2 : VReg) (s : State) (m : Word), s.modval ms = .ok m →
    s.vValid rs1 = true → s.vValid rs2 = true →
      ∃ x : Word, exec (.msub ms rd rs1 rs2) s = .next (s.writeV rd x).advance ∧
        (x.toNat : Int) =
          if (s.vReg rs1).toNat < (s.vReg rs2).toNat then
            ((s.vReg rs1).toNat - (s.vReg rs2).toNat + 2 ^ 256 + m.toNat : Int) % 2 ^ 256
          else ((s.vReg rs1).toNat - (s.vReg rs2).toNat : Int)

/-- R411: for canonical operands MSUB's result is the difference modulo the modulus, and canonical; subtracting undoes
adding; and adding the additive inverse gives 0. -/
def Obligations.MsubCanonical : Prop :=
  (∀ (ms : BitVec 2) (rd rs1 rs2 : VReg) (s : State) (m : Word), s.modval ms = .ok m →
    s.vValid rs1 = true → s.vValid rs2 = true →
    (s.vReg rs1).toNat < m.toNat → (s.vReg rs2).toNat < m.toNat →
      ∃ x : Word, exec (.msub ms rd rs1 rs2) s = .next (s.writeV rd x).advance ∧
        (x.toNat : Int) = ((s.vReg rs1).toNat - (s.vReg rs2).toNat : Int) % m.toNat ∧ x.toNat < m.toNat) ∧
  (∀ (ms : BitVec 2) (rd rs1 rs2 : VReg) (s : State) (m : Word), s.modval ms = .ok m →
    s.vValid rs1 = true → s.vValid rs2 = true →
    (s.vReg rs1).toNat < m.toNat → (s.vReg rs2).toNat < m.toNat → rd ≠ rs2 →
      ∃ t u, exec (.madd ms rd rs1 rs2) s = .next t ∧ exec (.msub ms rd rd rs2) t = .next u ∧
        u.vReg rd = s.vReg rs1) ∧
  (∀ (ms : BitVec 2) (rd rs1 rs2 : VReg) (s : State) (m : Word), s.modval ms = .ok m →
    s.vValid rs1 = true → s.vValid rs2 = true → s.vReg rs1 = m → (s.vReg rs2).toNat < m.toNat → rd ≠ rs2 →
      ∃ t u, exec (.msub ms rd rs1 rs2) s = .next t ∧ exec (.madd ms rd rs2 rd) t = .next u ∧ u.vReg rd = 0#256)

/-- MMUL with valid sources and a usable modulus completes with the product, fully reduced, for any operands (R420). -/
def Obligations.MmulResult : Prop :=
  ∀ (ms : BitVec 2) (rd rs1 rs2 : VReg) (s : State) (m : Word), s.modval ms = .ok m →
    s.vValid rs1 = true → s.vValid rs2 = true → (ms = 2#2 → m.toNat % 2 = 1 ∧ 3 ≤ m.toNat) →
      ∃ x : Word, exec (.mmul ms rd rs1 rs2) s = .next (s.writeV rd x).advance ∧
        x.toNat = (s.vReg rs1).toNat * (s.vReg rs2).toNat % m.toNat ∧ x.toNat < m.toNat

/-- MINV with a valid source, a usable modulus and an operand prime to it completes with the one inverse from 1 to
m - 1 (R440). -/
def Obligations.MinvResult : Prop :=
  ∀ (ms : BitVec 2) (rd rs1 : VReg) (s : State) (m : Word), s.modval ms = .ok m →
    s.vValid rs1 = true → (ms = 2#2 → m.toNat % 2 = 1 ∧ 3 ≤ m.toNat) →
    Nat.gcd ((s.vReg rs1).toNat % m.toNat) m.toNat = 1 →
      ∃ x : Word, exec (.minv ms rd rs1) s = .next (s.writeV rd x).advance ∧
        1 ≤ x.toNat ∧ x.toNat ≤ m.toNat - 1 ∧ (s.vReg rs1).toNat % m.toNat * x.toNat % m.toNat = 1 ∧
        ∀ c, 1 ≤ c → c ≤ m.toNat - 1 → (s.vReg rs1).toNat % m.toNat * c % m.toNat = 1 → c = x.toNat

/-- R906: MINV raises E_NO_INVERSE exactly when its reduced operand has no inverse modulo the selected modulus; for P and N
this means exactly that the operand is 0 modulo the modulus; the group-law instructions never raise it. -/
def Obligations.NoInverseRaised : Prop :=
  (∀ (ms : BitVec 2) (rd rs1 : VReg) (s : State) (m : Word), s.modval ms = .ok m →
    s.vValid rs1 = true → (ms = 2#2 → m.toNat % 2 = 1 ∧ 3 ≤ m.toNat) →
      (exec (.minv ms rd rs1) s = .next (s.raise .noInverse (encode (.minv ms rd rs1))) ↔
        ¬ ∃ c, (s.vReg rs1).toNat % m.toNat * c % m.toNat = 1)) ∧
  (∀ (ms : BitVec 2) (rd rs1 : VReg) (s : State) (m : Word), s.modval ms = .ok m → (ms = 0#2 ∨ ms = 1#2) →
    s.vValid rs1 = true →
      (exec (.minv ms rd rs1) s = .next (s.raise .noInverse (encode (.minv ms rd rs1))) ↔
        (s.vReg rs1).toNat % m.toNat = 0)) ∧
  (∀ (rd rs1 rs2 : BitVec 4) (s t : State) (w : CmdWord),
    (exec (.padd rd rs1 rs2) s = .next t ∨ exec (.pdbl rd rs1) s = .next t ∨ exec (.pmul rd rs1 rs2) s = .next t) →
      t ≠ s.raise .noInverse w)

/-- R905: MMUL and MINV with ms = 2 and M even or below 3 raise E_MODULUS, code 4; nothing else ever does. -/
def Obligations.ModulusRaised : Prop :=
  (∀ (rd rs1 rs2 : VReg) (s : State), s.validM = true → s.vValid rs1 = true → s.vValid rs2 = true →
    (s.m.toNat % 2 = 0 ∨ s.m.toNat < 3) →
      exec (.mmul 2#2 rd rs1 rs2) s = .next (s.raise .modulus (encode (.mmul 2#2 rd rs1 rs2))) ∧
      exec (.minv 2#2 rd rs1) s = .next (s.raise .modulus (encode (.minv 2#2 rd rs1)))) ∧
  (∀ (i : Instr) (s t : State) (w : CmdWord), s.runState = .busy → exec i s = .next t →
    t = s.raise .modulus w →
    t.cause = 4#4 ∧ (s.m.toNat % 2 = 0 ∨ s.m.toNat < 3) ∧
    ((∃ rd rs1 rs2, i = .mmul 2#2 rd rs1 rs2) ∨ ∃ rd rs1, i = .minv 2#2 rd rs1))

/-- CMPGE with valid sources completes: F says whether the first operand is at least the second, unsigned, and nothing
but F and pc changes (R460). -/
def Obligations.CmpgeResult : Prop :=
  ∀ (rs1 rs2 : VReg) (s : State), s.vValid rs1 = true → s.vValid rs2 = true →
    exec (.cmpge rs1 rs2) s =
      .next { s with f := decide ((s.vReg rs2).toNat ≤ (s.vReg rs1).toNat), pc := s.pc + 1#9 }

/-- R904: an instruction that names an invalid V or Q register as a source, or reads M while it is invalid, raises
E_UNINIT, code 3, before any other check; and it raises it in no other case. -/
def Obligations.UninitRaised : Prop :=
  (∀ (i : Instr) (s : State), i.WellFormed = true →
    ((∃ r ∈ i.vSources, s.vValid r = false) ∨ (∃ r ∈ i.qSources, s.qValid r = false) ∨
      (i.readsM = true ∧ s.validM = false)) →
      exec i s = .next (s.raise .uninit (encode i)) ∧ (s.raise .uninit (encode i)).cause = 3#4) ∧
  (∀ (i : Instr) (s t : State) (w : CmdWord), s.runState = .busy → exec i s = .next t →
    t = s.raise .uninit w →
    (∃ r ∈ i.vSources, s.vValid r = false) ∨ (∃ r ∈ i.qSources, s.qValid r = false) ∨
      (i.readsM = true ∧ s.validM = false))

/-! ## Points (spec/41_point_ops) -/

/-- MKPT with valid sources: the range check, then the curve check, then the point (R510). -/
def Obligations.MkptChecksThenWrites : Prop :=
  ∀ (rd : QReg) (rs1 rs2 : VReg) (s : State), s.vValid rs1 = true → s.vValid rs2 = true →
    ((primeP ≤ (s.vReg rs1).toNat ∨ primeP ≤ (s.vReg rs2).toNat) →
      exec (.mkpt rd rs1 rs2) s = .next (s.raise .invalidEncoding (encode (.mkpt rd rs1 rs2)))) ∧
    ((s.vReg rs1).toNat < primeP → (s.vReg rs2).toNat < primeP →
      fieldOf (s.vReg rs2) ^ 2 ≠ fieldOf (s.vReg rs1) ^ 3 + 7 →
      exec (.mkpt rd rs1 rs2) s = .next (s.raise .invalidPoint (encode (.mkpt rd rs1 rs2)))) ∧
    ((s.vReg rs1).toNat < primeP → (s.vReg rs2).toNat < primeP →
      fieldOf (s.vReg rs2) ^ 2 = fieldOf (s.vReg rs1) ^ 3 + 7 →
      exec (.mkpt rd rs1 rs2) s = .next (s.writeQ rd (.aff (s.vReg rs1) (s.vReg rs2))).advance)

/-- MKINF completes in every state, PMOV with a valid source: the point they write. PTINF with a valid source completes:
F says whether the point is infinity. PTX and PTY of a valid register that holds an affine point complete with its
coordinate (R511 to R515). -/
def Obligations.PointMovesAndReads : Prop :=
  (∀ (rd : QReg) (s : State), exec (.mkinf rd) s = .next (s.writeQ rd .inf).advance) ∧
  (∀ (rd rs1 : QReg) (s : State), s.qValid rs1 = true →
    exec (.pmov rd rs1) s = .next (s.writeQ rd (s.qReg rs1)).advance) ∧
  (∀ (rs1 : QReg) (s : State), s.qValid rs1 = true →
    exec (.ptinf rs1) s = .next { s with f := decide (s.qReg rs1 = .inf), pc := s.pc + 1#9 }) ∧
  (∀ (rd : VReg) (rs1 : QReg) (s : State) (x y : Word), s.qValid rs1 = true → s.qReg rs1 = .aff x y →
    exec (.ptx rd rs1) s = .next (s.writeV rd x).advance ∧ exec (.pty rd rs1) s = .next (s.writeV rd y).advance)

/-- R909: PTX or PTY of a Q register holding INF raises E_INFINITY, code 8; no other instruction does. -/
def Obligations.InfinityRaised : Prop :=
  (∀ (rd : VReg) (rs1 : QReg) (s : State), s.qValid rs1 = true → s.qReg rs1 = .inf →
    exec (.ptx rd rs1) s = .next (s.raise .infinity (encode (.ptx rd rs1))) ∧
    exec (.pty rd rs1) s = .next (s.raise .infinity (encode (.pty rd rs1)))) ∧
  (∀ (i : Instr) (s t : State) (w : CmdWord), s.runState = .busy → exec i s = .next t →
    t = s.raise .infinity w →
    t.cause = 8#4 ∧ ∃ rd rs1, (i = .ptx rd rs1 ∨ i = .pty rd rs1) ∧ s.qReg rs1 = .inf)

/-- R908: MKPT with valid sources raises E_INVALID_ENCODING, code 7, exactly when a coordinate is not below P; no other
instruction raises it. R907: E_INVALID_POINT, code 6, is raised by MKPT for coordinates below P off the curve, and by PDBL,
PADD and PMUL, their registers being valid, for a source point that is no valid point; and it is raised by nothing else,
so not for equal valid points in PADD. -/
def Obligations.PointChecksRaised : Prop :=
  (∀ (rd : QReg) (rs1 rs2 : VReg) (s : State), s.vValid rs1 = true → s.vValid rs2 = true →
    (exec (.mkpt rd rs1 rs2) s = .next (s.raise .invalidEncoding (encode (.mkpt rd rs1 rs2))) ↔
      primeP ≤ (s.vReg rs1).toNat ∨ primeP ≤ (s.vReg rs2).toNat)) ∧
  (∀ (i : Instr) (s t : State) (w : CmdWord), s.runState = .busy → exec i s = .next t →
    t = s.raise .invalidEncoding w → t.cause = 7#4 ∧ ∃ rd rs1 rs2, i = .mkpt rd rs1 rs2) ∧
  (∀ (rd : QReg) (rs1 rs2 : VReg) (s : State), s.vValid rs1 = true → s.vValid rs2 = true →
    (s.vReg rs1).toNat < primeP → (s.vReg rs2).toNat < primeP →
    onCurve (s.vReg rs1).toNat (s.vReg rs2).toNat = false →
      exec (.mkpt rd rs1 rs2) s = .next (s.raise .invalidPoint (encode (.mkpt rd rs1 rs2)))) ∧
  (∀ (rd rs1 : QReg) (s : State), s.qValid rs1 = true → validPt (s.qReg rs1) = false →
    exec (.pdbl rd rs1) s = .next (s.raise .invalidPoint (encode (.pdbl rd rs1)))) ∧
  (∀ (rd rs1 rs2 : QReg) (s : State), s.qValid rs1 = true → s.qValid rs2 = true →
    (validPt (s.qReg rs1) = false ∨ validPt (s.qReg rs2) = false) →
      exec (.padd rd rs1 rs2) s = .next (s.raise .invalidPoint (encode (.padd rd rs1 rs2)))) ∧
  (∀ (rd rs1 : QReg) (rs2 : VReg) (s : State), s.qValid rs1 = true → s.vValid rs2 = true →
    validPt (s.qReg rs1) = false →
      exec (.pmul rd rs1 rs2) s = .next (s.raise .invalidPoint (encode (.pmul rd rs1 rs2)))) ∧
  (∀ (i : Instr) (s t : State) (w : CmdWord), s.runState = .busy → exec i s = .next t →
    t = s.raise .invalidPoint w →
    t.cause = 6#4 ∧
    ((∃ rd rs1 rs2, i = .mkpt rd rs1 rs2 ∧ onCurve (s.vReg rs1).toNat (s.vReg rs2).toNat = false) ∨
      (((∃ rd rs1, i = .pdbl rd rs1) ∨ (∃ rd rs1 rs2, i = .padd rd rs1 rs2) ∨ ∃ rd rs1 rs2, i = .pmul rd rs1 rs2) ∧
        ∃ r ∈ i.qSources, validPt (s.qReg r) = false)))

/-- R501: doubling, case by case; in the general case the tangent slope satisfies its equation modulo P. Left out is only
the pair whose slope would divide by 0 modulo P, where inv_P has no value (spec/00_scope R13; log 10). -/
def Obligations.DoublingRule : Prop :=
  pointDouble .inf = .inf ∧
  (∀ x : Word, pointDouble (.aff x 0#256) = .inf) ∧
  (∀ x y : Word, fieldOf y ≠ 0 →
    ∃ (lam : ZMod primeP) (x3 y3 : Word), pointDouble (.aff x y) = .aff x3 y3 ∧
      x3.toNat < primeP ∧ y3.toNat < primeP ∧
      lam * (2 * fieldOf y) = 3 * (fieldOf x * fieldOf x) + (curveA : ZMod primeP) ∧
      fieldOf x3 = lam * lam - 2 * fieldOf x ∧
      fieldOf y3 = lam * (fieldOf x - fieldOf x3) - fieldOf y)

/-- R502: addition, case by case; equal points are doubled; in the general case the chord slope satisfies its equation
modulo P. Left out are only the pairs whose slope would divide by 0 modulo P, where inv_P has no value (spec/00_scope
R13; log 10). -/
def Obligations.AdditionRule : Prop :=
  (∀ q : Point, pointAdd .inf q = q) ∧
  (∀ p : Point, pointAdd p .inf = p) ∧
  (∀ x y1 y2 : Word, y1 ≠ y2 → pointAdd (.aff x y1) (.aff x y2) = .inf) ∧
  (∀ x y : Word, pointAdd (.aff x y) (.aff x y) = pointDouble (.aff x y)) ∧
  (∀ x1 y1 x2 y2 : Word, fieldOf x1 ≠ fieldOf x2 →
    ∃ (lam : ZMod primeP) (x3 y3 : Word), pointAdd (.aff x1 y1) (.aff x2 y2) = .aff x3 y3 ∧
      x3.toNat < primeP ∧ y3.toNat < primeP ∧
      lam * (fieldOf x2 - fieldOf x1) = fieldOf y2 - fieldOf y1 ∧
      fieldOf x3 = lam * lam - fieldOf x1 - fieldOf x2 ∧
      fieldOf y3 = lam * (fieldOf x1 - fieldOf x3) - fieldOf y1)

/-- R503: on valid points the results are valid, no point has y = 0, every denominator is nonzero modulo P, and points with
one x are equal or inverse. -/
def Obligations.GroupLawOnValidPoints : Prop :=
  (∀ p : Point, validPt p = true → validPt (pointDouble p) = true) ∧
  (∀ p q : Point, validPt p = true → validPt q = true → validPt (pointAdd p q) = true) ∧
  (∀ x y : Word, validPt (.aff x y) = true → y ≠ 0#256 ∧ 2 * fieldOf y ≠ 0) ∧
  (∀ x1 y1 x2 y2 : Word, validPt (.aff x1 y1) = true → validPt (.aff x2 y2) = true →
    x1 ≠ x2 → fieldOf x2 - fieldOf x1 ≠ 0) ∧
  (∀ x y1 y2 : Word, validPt (.aff x y1) = true → validPt (.aff x y2) = true →
    y1 = y2 ∨ y1.toNat = primeP - y2.toNat)

/-- Addition of valid points commutes (R521, corner cases). -/
def Obligations.AdditionCommutes : Prop :=
  ∀ p q : Point, validPt p = true → validPt q = true → pointAdd p q = pointAdd q p

/-- PDBL and PADD with valid registers that hold valid points complete with the doubling and the sum (R520, R521); a
register that holds no valid point raises E_INVALID_POINT. -/
def Obligations.PointAdderResults : Prop :=
  (∀ (rd rs1 : QReg) (s : State), s.qValid rs1 = true →
    exec (.pdbl rd rs1) s =
      if validPt (s.qReg rs1) = true then .next (s.writeQ rd (pointDouble (s.qReg rs1))).advance
      else .next (s.raise .invalidPoint (encode (.pdbl rd rs1)))) ∧
  (∀ (rd rs1 rs2 : QReg) (s : State), s.qValid rs1 = true → s.qValid rs2 = true →
    exec (.padd rd rs1 rs2) s =
      if validPt (s.qReg rs1) = true ∧ validPt (s.qReg rs2) = true then
        .next (s.writeQ rd (pointAdd (s.qReg rs1) (s.qReg rs2))).advance
      else .next (s.raise .invalidPoint (encode (.padd rd rs1 rs2))))

/-! ## Scalar multiplication (spec/42_scalar_mult) -/

/-- PMUL with a valid scalar and a valid point completes with the value of MSB-first double-and-add over the 256 bits of
k modulo N, from infinity (R600). -/
def Obligations.PmulDoubleAndAdd : Prop :=
  ∀ (rd rs1 : QReg) (rs2 : VReg) (s : State), s.qValid rs1 = true → s.vValid rs2 = true →
    validPt (s.qReg rs1) = true →
      exec (.pmul rd rs1 rs2) s =
        .next (s.writeQ rd ((List.range 256).reverse.foldl
          (fun acc i =>
            if ((s.vReg rs2).toNat % orderN).testBit i = true then pointAdd (pointDouble acc) (s.qReg rs1)
            else pointDouble acc)
          .inf)).advance

/-- Corner cases of PMUL: k = 0 or N gives INF, k = 1 or N + 1 gives p, and p = INF gives INF for every k
(R600). -/
def Obligations.PmulCornerCases : Prop :=
  ∀ (rd rs1 : QReg) (rs2 : VReg) (s : State), s.qValid rs1 = true → s.vValid rs2 = true →
    validPt (s.qReg rs1) = true →
      (((s.vReg rs2).toNat = 0 ∨ (s.vReg rs2).toNat = orderN) →
        exec (.pmul rd rs1 rs2) s = .next (s.writeQ rd .inf).advance) ∧
      (((s.vReg rs2).toNat = 1 ∨ (s.vReg rs2).toNat = orderN + 1) →
        exec (.pmul rd rs1 rs2) s = .next (s.writeQ rd (s.qReg rs1)).advance) ∧
      (s.qReg rs1 = .inf → exec (.pmul rd rs1 rs2) s = .next (s.writeQ rd .inf).advance)

/-! ## Frames: what an instruction leaves unchanged -/

/-- Every V register and every Q register but the one an instruction writes keeps its contents and valid bit (R101, R111,
R310). -/
def Obligations.FrameOfRegisters : Prop :=
  ∀ (i : Instr) (s t : State), exec i s = .next t →
    (∀ r : VReg, i.vDest ≠ some r → t.vReg r = s.vReg r ∧ t.vValid r = s.vValid r) ∧
    (∀ r : QReg, i.qDest ≠ some r → t.qReg r = s.qReg r ∧ t.qValid r = s.qValid r)

/-- Every byte of the data RAM outside the slot an instruction stores to reads as before; an instruction that stores to
none changes no byte (R207, R701). -/
def Obligations.FrameOfDataRam : Prop :=
  ∀ (i : Instr) (s t : State) (a : Nat), exec i s = .next t →
    (∀ slot, i.storeSlot = some slot → a < slotAddr slot ∨ slotAddr slot + 32 ≤ a) → t.readByte a = s.readByte a

/-- No instruction writes START_PC, IE, the command RAM or the model's own fields (R201, R151; log 1, 3, 6, 7). -/
def Obligations.FrameOfHostSide : Prop :=
  ∀ (i : Instr) (s t : State), exec i s = .next t → SameHostSide s t

/-- STATE, CAUSE, FAULT_PC, FAULT_INSTR and IRQ_PENDING change only by HALT and by raising an exception (R130, R921,
R931). -/
def Obligations.FrameOfRunControl : Prop :=
  ∀ (i : Instr) (s t : State), exec i s = .next t →
    SameRunControl s t ∨ (i = .halt ∧ t = { s with runState := .done, irqPending := true }) ∨
      ∃ e, t = s.raise e (encode i)

/-- R125: only CMPGE and PTINF write F; GO and every reset clear it; it is STATUS bit 2. -/
def Obligations.OnlyComparesWriteF : Prop :=
  (∀ (i : Instr) (s t : State), exec i s = .next t → i.writesF = false → t.f = s.f) ∧
  (∀ s t : State, step s = .next t → s.runState ≠ .busy → t.runState = .busy → t.f = false) ∧
  State.reset.f = false ∧
  (∀ s t : State, step s = .next t → s.nextMove.isReset = true → t.f = false) ∧
  (∀ s : State, (s.windowWord 0x008).getLsbD 2 = s.f)

/-- R121: VALID_M is 0 after reset and 1 after any SETM; reading M while it is 0 raises E_UNINIT; M and VALID_M are kept
by every step but an SETM and a reset, so across runs; VALID_M is bit 16 of the VALID_V register. -/
def Obligations.ModulusRegister : Prop :=
  State.reset.validM = false ∧
  (∀ s t : State, step s = .next t → s.nextMove.isReset = true → t.validM = false) ∧
  (∀ (rs1 : VReg) (s : State), s.vValid rs1 = true →
    ∃ t, exec (.setm rs1) s = .next t ∧ t.validM = true ∧ t.m = s.vReg rs1) ∧
  (∀ s : State, s.validM = false → s.readM = .error .uninit) ∧
  (∀ (i : Instr) (s t : State), exec i s = .next t → i.writesM = false → t.m = s.m ∧ t.validM = s.validM) ∧
  (∀ s t : State, step s = .next t → (t.m ≠ s.m ∨ t.validM ≠ s.validM) →
    s.nextMove.isReset = true ∨
    (s.nextMove = .core ∧ s.runState = .busy ∧ ∃ rs1, decode (s.cmdWord s.pc.toNat) = .ok (.setm rs1))) ∧
  (∀ s : State, (s.windowWord 0x020).getLsbD 16 = s.validM)

/-- R102: the valid bit of a V register is 0 after reset, set by every write, and cleared by nothing but a reset; reading
a register whose bit is 0 raises E_UNINIT; the host reads the bits at offset 0x020. R103: no move but a core turn or a
reset, so no GO and no other host transaction, changes the contents or the valid bit of a V register. -/
def Obligations.ValidBitsOfV : Prop :=
  (∀ r : VReg, State.reset.vValid r = false) ∧
  (∀ (s : State) (r : VReg) (x : Word), (s.writeV r x).readV r = .ok x) ∧
  (∀ (s t : State) (r : VReg), step s = .next t → s.nextMove.isReset = false → s.nextMove ≠ .core →
    t.vReg r = s.vReg r ∧ t.vValid r = s.vValid r) ∧
  (∀ (s t : State) (r : VReg), step s = .next t → s.vValid r = true → t.vValid r = false →
    s.nextMove.isReset = true) ∧
  (∀ (s t : State), step s = .next t → s.nextMove.isReset = true → ∀ r : VReg, t.vValid r = false) ∧
  (∀ (s : State) (r : VReg), s.vValid r = false → s.readV r = .error .uninit) ∧
  (∀ (s : State) (r : VReg), (s.windowWord 0x020).getLsbD r.toNat = s.vValid r)

/-- R112: the same for the Q registers, whose bits the host reads at offset 0x024. -/
def Obligations.ValidBitsOfQ : Prop :=
  (∀ r : QReg, State.reset.qValid r = false) ∧
  (∀ (s t : State), step s = .next t → s.nextMove.isReset = true → ∀ r : QReg, t.qValid r = false) ∧
  (∀ (s : State) (r : QReg) (pt : Point), (s.writeQ r pt).readQ r = .ok pt) ∧
  (∀ (s : State) (r : QReg), s.qValid r = false → s.readQ r = .error .uninit) ∧
  (∀ (s t : State) (r : QReg), step s = .next t → s.nextMove.isReset = false → s.nextMove ≠ .core →
    t.qReg r = s.qReg r ∧ t.qValid r = s.qValid r) ∧
  (∀ (s t : State) (r : QReg), step s = .next t → s.qValid r = true → t.qValid r = false →
    s.nextMove.isReset = true) ∧
  (∀ (s : State) (r : QReg), (s.windowWord 0x024).getLsbD r.toNat = s.qValid r)

/-! ## Exceptions and the interrupt (spec/60_exceptions) -/

/-- R920: what a step that raises an exception writes, and that nothing else changes: with the five fields put back the
state is the one before (the moves still to come and the record of reached indices are the model's own). The core stays in FAULT
until GO or a reset. -/
def Obligations.ExceptionEntry : Prop :=
  (∀ s t : State, s.nextMove = .core → s.runState = .busy → step s = .next t → t.runState = .fault →
    (∃ e : Exc, t.cause = e.code ∧ (t.faultInstr = if s.pc.toNat < 256 then s.cmdWord s.pc.toNat else 0#32)) ∧
    t.faultPc = s.pc ∧ t.irqPending = true ∧
    { t with
      cause := s.cause, faultPc := s.faultPc, faultInstr := s.faultInstr, runState := s.runState,
      irqPending := s.irqPending, schedule := s.schedule, stream := s.stream, trail := s.trail } = s) ∧
  (∀ s t : State, s.runState = .fault → step s = .next t → t.runState ≠ .fault →
    s.nextMove.isReset = true ∨
    (t.runState = .busy ∧ ∃ d : CmdWord, s.nextMove.isCtrlWrite d ∧ d.getLsbD 0 = true))

/-- The codes of R901, and that no other is ever recorded by an exception. -/
def Obligations.ExceptionCodes : Prop :=
  (Exc.illegal.code = 1#4 ∧ Exc.fetch.code = 2#4 ∧ Exc.uninit.code = 3#4 ∧ Exc.modulus.code = 4#4 ∧
    Exc.noInverse.code = 5#4 ∧ Exc.invalidPoint.code = 6#4 ∧ Exc.invalidEncoding.code = 7#4 ∧
    Exc.infinity.code = 8#4) ∧
  ∀ (s : State) (e : Exc) (w : CmdWord), 1 ≤ (s.raise e w).cause.toNat ∧ (s.raise e w).cause.toNat ≤ 8

/-- R930: irq is IRQ_PENDING and IE, and 0 after reset. R931: the end of a run by HALT or by an exception sets
IRQ_PENDING, whatever IE is, and nothing else sets it. -/
def Obligations.InterruptRaised : Prop :=
  (∀ s : State, s.irq = (s.irqPending && s.ie)) ∧ State.reset.irq = false ∧
  (∀ s t : State, step s = .next t → s.nextMove.isReset = true → t.irq = false) ∧
  (∀ s t : State, step s = .next t → s.runState = .busy → (t.runState = .done ∨ t.runState = .fault) →
    t.irqPending = true) ∧
  (∀ s t : State, step s = .next t → s.irqPending = false → t.irqPending = true →
    s.runState = .busy ∧ (t.runState = .done ∨ t.runState = .fault))

/-- What clears IRQ_PENDING (R932): a write of STATUS with bit 3, which does so in every STATE, or a reset; GO keeps it. A
write of STATUS changes nothing else, STATE and F included (R152); the answer it leaves on the bus has the model's data 0
(log 7, 13). -/
def Obligations.InterruptPendingCleared : Prop :=
  (∀ s t : State, step s = .next t → s.irqPending = true → t.irqPending = false →
    s.nextMove.isReset = true ∨
    ∃ d : CmdWord, s.nextMove = .bus (.write 0x008#14 .four d) ∧ d.getLsbD 3 = true) ∧
  (∀ (s : State) (d : CmdWord),
    s.transact (.write 0x008#14 .four d) =
      { s with irqPending := s.irqPending && !d.getLsbD 3, resp := some ⟨0#32, false⟩ }) ∧
  (∀ (s : State) (d : CmdWord), d.getLsbD 2 = false →
    (s.transact (.write 0x004#14 .four d)).irqPending = s.irqPending)

/-! ## Reset and the host interface (spec/10_state, spec/20_memory, spec/70_reset) -/

/-- The values of R180 after hardware reset: every register invalid and unreadable, every field 0, STATE = IDLE, the ROM
at its values, each RAM location its free value (R227; log 1), and nothing executed by a core turn (log 3, 4). -/
def Obligations.ResetValues : Prop :=
  (∀ r : VReg, State.reset.readV r = .error .uninit) ∧
  (∀ r : QReg, State.reset.readQ r = .error .uninit) ∧
  State.reset.readM = .error .uninit ∧
  State.reset.validVWord = 0#32 ∧ State.reset.validP = 0#16 ∧
  State.reset.f = false ∧ State.reset.pc = 0#9 ∧ State.reset.runState = .idle ∧ State.reset.cause = 0#4 ∧
  State.reset.faultPc = 0#9 ∧ State.reset.faultInstr = 0#32 ∧ State.reset.startPc = 0#8 ∧ State.reset.ie = false ∧
  State.reset.irqPending = false ∧ State.reset.irq = false ∧ State.reset.windowWord 0x000 = 0x534B3101#32 ∧
  (∀ i, State.reset.cmdWord i = Config.powerUpWord 0 i) ∧ (∀ a, State.reset.readByte a = Config.powerUpByte 0 a) ∧
  rom 0 = 0#256 ∧ rom 1 = 7#256 ∧
  rom 2 = 0xFFFFFFFFFFFFFFFFFFFFFFFFFFFFFFFFFFFFFFFFFFFFFFFFFFFFFFFEFFFFFC2F#256 ∧
  rom 3 = 0xFFFFFFFFFFFFFFFFFFFFFFFFFFFFFFFEBAAEDCE6AF48A03BBFD25E8CD0364141#256 ∧
  rom 4 = 0x79BE667EF9DCBBAC55A06295CE870B07029BFCDB2DCE28D959F2815B16F81798#256 ∧
  rom 5 = 0x483ADA7726A3C4655DA4FBFC0E1108A8FD17B448A68554199C47D08FFB10D4B8#256 ∧
  step State.reset = .next State.reset

/-- R1001: a write of CTRL with bit 2 set, in any STATE and whatever its other bits, has the effect of hardware reset on
every register and leaves both RAMs unchanged. Hardware reset sets every field to its value in the reset state, in any
STATE (R1000). The contents V, Q and M then have, though unreadable, are the model's choice (log 2); the RAMs read as new
free values, and the moves still to come and the counters, the model's own, go on (log 1, 3, 6, 7, 12). -/
def Obligations.BothResets : Prop :=
  (∀ (s : State) (d : CmdWord), d.getLsbD 2 = true →
    ∃ t, s.transact (.write 0x004#14 .four d) = t ∧ SameRams s t ∧
      { t with
        cmd := [], data := [], schedule := [], stream := none, resp := none, draws := 0, powerUps := 0 } = State.reset) ∧
  (∀ s : State, s.nextMove = .hardReset →
    step s = .next { State.reset with
      schedule := s.popMove.schedule, stream := s.popMove.stream, draws := s.draws, powerUps := s.powerUps + 1 })

/-- What host writes do in the register block, STATUS apart (InterruptPendingCleared). A write of CTRL stores IE; then
SOFT_RESET acts and GO in the same write is ignored; GO outside BUSY starts a run at START_PC with F and the fault record
cleared and keeps everything else; GO while BUSY is ignored; CTRL reads as IE at bit 1 (R151). A write of START_PC outside
BUSY stores bits [7:0] and changes nothing else (R156). A write of a read-only register (R150, R153 to R155, R157 to R159)
or of a reserved offset of the block or the window (R160, R210) changes nothing, in any STATE. The model's choices here:
the contents of V, Q and M after SOFT_RESET (log 2), the trail (log 6), and the answer kept in `resp`, with data 0 for a
write (log 7, 13). -/
def Obligations.ControlRegister : Prop :=
  (∀ (s : State) (d : CmdWord), d.getLsbD 2 = false → d.getLsbD 0 = true → s.runState ≠ .busy →
    s.transact (.write 0x004#14 .four d) =
      { s with
        ie := d.getLsbD 1, pc := s.startPc.setWidth 9, f := false, cause := 0#4, faultPc := 0#9,
        faultInstr := 0#32, runState := .busy, trail := [s.startPc.setWidth 9], resp := some ⟨0#32, false⟩ }) ∧
  (∀ (s : State) (d : CmdWord), d.getLsbD 2 = false → (d.getLsbD 0 = false ∨ s.runState = .busy) →
    s.transact (.write 0x004#14 .four d) = { s with ie := d.getLsbD 1, resp := some ⟨0#32, false⟩ }) ∧
  (∀ (s : State) (d : CmdWord), d.getLsbD 2 = true →
    s.transact (.write 0x004#14 .four d) =
      { State.reset with
        cmd := s.cmd, data := s.data, schedule := s.schedule, stream := s.stream, draws := s.draws,
        powerUps := s.powerUps,
        resp := some ⟨0#32, false⟩ }) ∧
  (∀ s : State, s.windowWord 0x004 = if s.ie = true then 2#32 else 0#32) ∧ State.reset.windowWord 0x004 = 0#32 ∧
  (∀ (s : State) (d : CmdWord), s.runState ≠ .busy →
    s.transact (.write 0x018#14 .four d) =
      { s with startPc := BitVec.ofNat 8 (d.toNat % 256), resp := some ⟨0#32, false⟩ }) ∧
  (∀ (s : State) (off : BitVec 14) (d : CmdWord), off.toNat % 4 = 0 →
    ((off.toNat < 0x1000 ∧ off.toNat ≠ 0x004 ∧ off.toNat ≠ 0x008 ∧ off.toNat ≠ 0x018) ∨
      (0x1400 ≤ off.toNat ∧ off.toNat < 0x2000) ∨ 0x3000 ≤ off.toNat) →
      s.transact (.write off .four d) = { s with resp := some ⟨0#32, false⟩ })

/-- What the registers read as (R150, R152 to R160). Outside a run a host read of an aligned offset answers that word,
with no error, and changes nothing but the answer, which the model keeps in `resp` (R146, R210; log 7); the reserved ranges
of the window read 0 in any STATE (R210). CTRL is in ControlRegister, the RAMs' words are in CommandRamAccess and
DataWordLanes. -/
def Obligations.RegisterReads : Prop :=
  (∀ (s : State) (off : BitVec 14), s.runState ≠ .busy → off.toNat % 4 = 0 →
    s.transact (.read off .four) = { s with resp := some ⟨s.windowWord off.toNat, false⟩ }) ∧
  (∀ (s : State) (off : BitVec 14), off.toNat % 4 = 0 →
    ((0x1400 ≤ off.toNat ∧ off.toNat < 0x2000) ∨ 0x3000 ≤ off.toNat) →
      s.transact (.read off .four) = { s with resp := some ⟨0#32, false⟩ }) ∧
  ∀ s : State,
    s.windowWord 0x000 = 0x534B3101#32 ∧
    (s.windowWord 0x008).toNat =
      (match s.runState with | .idle => 0 | .busy => 1 | .done => 2 | .fault => 3)
        + (if s.f = true then 4 else 0) + (if s.irqPending = true then 8 else 0) ∧
    (s.windowWord 0x00C).toNat = s.cause.toNat ∧
    (s.windowWord 0x010).toNat = s.faultPc.toNat ∧
    s.windowWord 0x014 = s.faultInstr ∧
    (s.windowWord 0x018).toNat = s.startPc.toNat ∧
    (s.windowWord 0x01C).toNat = s.pc.toNat ∧
    (s.windowWord 0x020).toNat = s.validV.toNat + (if s.validM = true then 65536 else 0) ∧
    (s.windowWord 0x024).toNat = s.validP.toNat ∧
    (∀ off, 0x028 ≤ off → off < 0x1000 → s.windowWord off = 0#32)

/-- R208: a host access that is no 4-byte access at an offset divisible by 4 answers an error and has no effect but that
answer. Data 0 of a rejected read is R146's; that a rejected write's answer has data 0, and that the answer is kept in
`resp`, is the model's choice (log 7, 13). -/
def Obligations.RejectedAccess : Prop :=
  ∀ (s : State) (off : BitVec 14) (size : AccessSize) (d : CmdWord), (size ≠ .four ∨ off.toNat % 4 ≠ 0) →
    s.transact (.read off size) = { s with resp := some ⟨0#32, true⟩ } ∧
    s.transact (.write off size d) = { s with resp := some ⟨0#32, true⟩ }

/-- R221: while BUSY, host writes to the RAMs and to START_PC are ignored and host reads of the RAMs return 0, all with
err = 0, and the register block stays readable. That the answer is kept in `resp`, with data 0 for a write, is the model's
choice (log 7, 13). -/
def Obligations.HostAccessDuringRun : Prop :=
  (∀ (s : State) (off : BitVec 14) (d : CmdWord), s.runState = .busy → off.toNat % 4 = 0 →
    (off.toNat = 0x018 ∨ (0x1000 ≤ off.toNat ∧ off.toNat < 0x1400) ∨ (0x2000 ≤ off.toNat ∧ off.toNat < 0x3000)) →
      s.transact (.write off .four d) = { s with resp := some ⟨0#32, false⟩ }) ∧
  (∀ (s : State) (off : BitVec 14), s.runState = .busy → off.toNat % 4 = 0 →
    ((0x1000 ≤ off.toNat ∧ off.toNat < 0x1400) ∨ (0x2000 ≤ off.toNat ∧ off.toNat < 0x3000)) →
      s.transact (.read off .four) = { s with resp := some ⟨0#32, false⟩ }) ∧
  (∀ (s : State) (off : BitVec 14), s.runState = .busy → off.toNat % 4 = 0 → off.toNat < 0x1000 →
    off.toNat ≠ 0x01C → s.transact (.read off .four) = { s with resp := some ⟨s.registerWord off.toNat, false⟩ }) ∧
  (∀ s : State, ∃ p : CmdWord, (s.transact (.read 0x01C#14 .four)).resp = some ⟨p, false⟩)

/-- R201: outside BUSY the host writes and reads `CMD[i]` at `0x1000 + 4i`, bit for bit, and a write leaves every other
word and all other state alone (R210), the answer in `resp` apart (log 7); the core never writes it. R225: the command RAM
is constant for the whole of a run: whatever moves while BUSY, a hardware reset apart (which ends the run and draws the
RAM anew), every word reads as before. -/
def Obligations.CommandRamAccess : Prop :=
  (∀ (s : State) (i : Nat) (d : CmdWord), i < 256 → s.runState ≠ .busy →
    (s.transact (.write (BitVec.ofNat 14 (0x1000 + 4 * i)) .four d)).cmdWord i = d ∧
    (∀ j, j ≠ i → (s.transact (.write (BitVec.ofNat 14 (0x1000 + 4 * i)) .four d)).cmdWord j = s.cmdWord j) ∧
    { s.transact (.write (BitVec.ofNat 14 (0x1000 + 4 * i)) .four d) with cmd := s.cmd, resp := s.resp } = s ∧
    s.transact (.read (BitVec.ofNat 14 (0x1000 + 4 * i)) .four) = { s with resp := some ⟨s.cmdWord i, false⟩ }) ∧
  (∀ s t : State, coreStep s = .next t → t.cmd = s.cmd) ∧
  (∀ s t : State, s.runState = .busy → s.nextMove ≠ .hardReset → step s = .next t →
    ∀ i, t.cmdWord i = s.cmdWord i)

/-- R205: outside BUSY the host word at `0x2000 + 4j` is `DATA[4j]` to `DATA[4j+3]`, the first in bits [31:24], on a read
and on a write, which changes no other byte and no other state (R210), the answer in `resp` apart (log 7); and the eight
words of a slot, first most significant, are the slot's value. -/
def Obligations.DataWordLanes : Prop :=
  (∀ (s : State) (j : Nat), j < 1024 → s.runState ≠ .busy →
    ∃ w : CmdWord,
      s.transact (.read (BitVec.ofNat 14 (0x2000 + 4 * j)) .four) = { s with resp := some ⟨w, false⟩ } ∧
      ∀ k, k < 4 → w.toNat / 256 ^ (3 - k) % 256 = (s.readByte (4 * j + k)).toNat) ∧
  (∀ (s : State) (j : Nat) (d : CmdWord), j < 1024 → s.runState ≠ .busy →
    ∃ t, s.transact (.write (BitVec.ofNat 14 (0x2000 + 4 * j)) .four d) = t ∧
      (∀ k, k < 4 → (t.readByte (4 * j + k)).toNat = d.toNat / 256 ^ (3 - k) % 256) ∧
      (∀ a, (a < 4 * j ∨ 4 * j + 4 ≤ a) → t.readByte a = s.readByte a) ∧
      { t with data := s.data, resp := s.resp } = s) ∧
  (∀ (s : State) (slot : BitVec 7),
    (be256 (s.memRead (slotAddr slot) 32)).toNat =
      (List.range 8).foldl (fun acc j => acc * 2 ^ 32 + (s.dataWord (8 * slot.toNat + j)).toNat) 0)

/-- A PC read during a run answers one of the indices the run has reached since the one the host last saw, whichever the
free choice `Config.pcPick` takes, and changes nothing but the model's record (R157, spec/93 U4; log 6). -/
def Obligations.PcReadDuringRun : Prop :=
  ∀ s : State, s.runState = .busy → s.trail ≠ [] →
    ∃ (k : Nat) (p : BitVec 9), s.trail[k]? = some p ∧
      s.transact (.read 0x01C#14 .four) =
        { s with
          trail := s.trail.take (k + 1), draws := s.draws + 1, resp := some ⟨p.setWidth 32, false⟩ }

/-! ## Whole-machine rules and invariants -/

/-- No host transaction but a soft reset disturbs a run (R1014, R221): made before a core step it leaves everything a run
computes with alone, and the step computes and records the same. -/
def Obligations.HostCannotDisturbRun : Prop :=
  ∀ (s : State) (x : Transaction), s.runState = .busy → (Move.bus x).isReset = false →
    SameRun s (s.transact x) ∧
    ∀ t, coreStep s = .next t → ∃ t', coreStep (s.transact x) = .next t' ∧ SameRun t t'

/-- The reset state meets both invariants, whatever moves are to come (log 3). The points part holds because no Q register
is valid there. -/
def Obligations.ResetMeetsInvariants : Prop :=
  ∀ (ms : List Move) (st : Option Nat), Inv { State.reset with schedule := ms, stream := st }

/-- Every step, by whichever agent, keeps the control invariant: pc from 0 to 256 (R131), the RAMs in canonical form, the
fault record coherent (R130, R133, R901), IDLE untouched, and the record of reached indices coherent. The canonical form
and that record are the model's own (log 1, 6). -/
def Obligations.StepKeepsControlInv : Prop :=
  ∀ s t : State, ControlInv s → step s = .next t → ControlInv t

/-- R111: every step keeps every valid Q register infinity or on the curve, and the reset state has it so; only MKPT,
MKINF, PMOV, PADD, PDBL and PMUL write Q registers. -/
def Obligations.PointsStayOnCurve : Prop :=
  (∀ s t : State, PointsValid s → step s = .next t → PointsValid t) ∧ PointsValid State.reset ∧
  (∀ (i : Instr) (s t : State), exec i s = .next t → (t.q ≠ s.q ∨ t.validP ≠ s.validP) →
    ∃ (rd : QReg) (a b : BitVec 4), i = .mkpt rd a b ∨ i = .mkinf rd ∨ i = .pmov rd a ∨ i = .padd rd a b ∨
      i = .pdbl rd a ∨ i = .pmul rd a b)
end

