-- ==== Sys2Proof/Laws/State.lean ====
section
/-! SUPPORT. What each update of the state leaves in each field: one lemma per field per update, so that no later proof
unfolds a record update. -/

namespace Sys2Proof.Laws

open Sys2Proof.Machine

/-! ### State.writeV -/

@[simp] theorem writeV_v (s : State) (i : VReg) (x : Word) : (s.writeV i x).v = s.v.set i.toNat x i.isLt := rfl
@[simp] theorem writeV_validV (s : State) (i : VReg) (x : Word) : (s.writeV i x).validV = s.validV ||| BitVec.twoPow 16 i.toNat := rfl
@[simp] theorem writeV_q (s : State) (i : VReg) (x : Word) : (s.writeV i x).q = s.q := rfl
@[simp] theorem writeV_validP (s : State) (i : VReg) (x : Word) : (s.writeV i x).validP = s.validP := rfl
@[simp] theorem writeV_m (s : State) (i : VReg) (x : Word) : (s.writeV i x).m = s.m := rfl
@[simp] theorem writeV_validM (s : State) (i : VReg) (x : Word) : (s.writeV i x).validM = s.validM := rfl
@[simp] theorem writeV_f (s : State) (i : VReg) (x : Word) : (s.writeV i x).f = s.f := rfl
@[simp] theorem writeV_pc (s : State) (i : VReg) (x : Word) : (s.writeV i x).pc = s.pc := rfl
@[simp] theorem writeV_runState (s : State) (i : VReg) (x : Word) : (s.writeV i x).runState = s.runState := rfl
@[simp] theorem writeV_cause (s : State) (i : VReg) (x : Word) : (s.writeV i x).cause = s.cause := rfl
@[simp] theorem writeV_faultPc (s : State) (i : VReg) (x : Word) : (s.writeV i x).faultPc = s.faultPc := rfl
@[simp] theorem writeV_faultInstr (s : State) (i : VReg) (x : Word) : (s.writeV i x).faultInstr = s.faultInstr := rfl
@[simp] theorem writeV_startPc (s : State) (i : VReg) (x : Word) : (s.writeV i x).startPc = s.startPc := rfl
@[simp] theorem writeV_ie (s : State) (i : VReg) (x : Word) : (s.writeV i x).ie = s.ie := rfl
@[simp] theorem writeV_irqPending (s : State) (i : VReg) (x : Word) : (s.writeV i x).irqPending = s.irqPending := rfl
@[simp] theorem writeV_cmd (s : State) (i : VReg) (x : Word) : (s.writeV i x).cmd = s.cmd := rfl
@[simp] theorem writeV_data (s : State) (i : VReg) (x : Word) : (s.writeV i x).data = s.data := rfl
@[simp] theorem writeV_schedule (s : State) (i : VReg) (x : Word) : (s.writeV i x).schedule = s.schedule := rfl
@[simp] theorem writeV_stream (s : State) (i : VReg) (x : Word) : (s.writeV i x).stream = s.stream := rfl
@[simp] theorem writeV_resp (s : State) (i : VReg) (x : Word) : (s.writeV i x).resp = s.resp := rfl
@[simp] theorem writeV_trail (s : State) (i : VReg) (x : Word) : (s.writeV i x).trail = s.trail := rfl
@[simp] theorem writeV_draws (s : State) (i : VReg) (x : Word) : (s.writeV i x).draws = s.draws := rfl
@[simp] theorem writeV_powerUps (s : State) (i : VReg) (x : Word) : (s.writeV i x).powerUps = s.powerUps := rfl

/-! ### State.writeQ -/

@[simp] theorem writeQ_v (s : State) (i : QReg) (pt : Point) : (s.writeQ i pt).v = s.v := rfl
@[simp] theorem writeQ_validV (s : State) (i : QReg) (pt : Point) : (s.writeQ i pt).validV = s.validV := rfl
@[simp] theorem writeQ_q (s : State) (i : QReg) (pt : Point) : (s.writeQ i pt).q = s.q.set i.toNat pt i.isLt := rfl
@[simp] theorem writeQ_validP (s : State) (i : QReg) (pt : Point) : (s.writeQ i pt).validP = s.validP ||| BitVec.twoPow 16 i.toNat := rfl
@[simp] theorem writeQ_m (s : State) (i : QReg) (pt : Point) : (s.writeQ i pt).m = s.m := rfl
@[simp] theorem writeQ_validM (s : State) (i : QReg) (pt : Point) : (s.writeQ i pt).validM = s.validM := rfl
@[simp] theorem writeQ_f (s : State) (i : QReg) (pt : Point) : (s.writeQ i pt).f = s.f := rfl
@[simp] theorem writeQ_pc (s : State) (i : QReg) (pt : Point) : (s.writeQ i pt).pc = s.pc := rfl
@[simp] theorem writeQ_runState (s : State) (i : QReg) (pt : Point) : (s.writeQ i pt).runState = s.runState := rfl
@[simp] theorem writeQ_cause (s : State) (i : QReg) (pt : Point) : (s.writeQ i pt).cause = s.cause := rfl
@[simp] theorem writeQ_faultPc (s : State) (i : QReg) (pt : Point) : (s.writeQ i pt).faultPc = s.faultPc := rfl
@[simp] theorem writeQ_faultInstr (s : State) (i : QReg) (pt : Point) : (s.writeQ i pt).faultInstr = s.faultInstr := rfl
@[simp] theorem writeQ_startPc (s : State) (i : QReg) (pt : Point) : (s.writeQ i pt).startPc = s.startPc := rfl
@[simp] theorem writeQ_ie (s : State) (i : QReg) (pt : Point) : (s.writeQ i pt).ie = s.ie := rfl
@[simp] theorem writeQ_irqPending (s : State) (i : QReg) (pt : Point) : (s.writeQ i pt).irqPending = s.irqPending := rfl
@[simp] theorem writeQ_cmd (s : State) (i : QReg) (pt : Point) : (s.writeQ i pt).cmd = s.cmd := rfl
@[simp] theorem writeQ_data (s : State) (i : QReg) (pt : Point) : (s.writeQ i pt).data = s.data := rfl
@[simp] theorem writeQ_schedule (s : State) (i : QReg) (pt : Point) : (s.writeQ i pt).schedule = s.schedule := rfl
@[simp] theorem writeQ_stream (s : State) (i : QReg) (pt : Point) : (s.writeQ i pt).stream = s.stream := rfl
@[simp] theorem writeQ_resp (s : State) (i : QReg) (pt : Point) : (s.writeQ i pt).resp = s.resp := rfl
@[simp] theorem writeQ_trail (s : State) (i : QReg) (pt : Point) : (s.writeQ i pt).trail = s.trail := rfl
@[simp] theorem writeQ_draws (s : State) (i : QReg) (pt : Point) : (s.writeQ i pt).draws = s.draws := rfl
@[simp] theorem writeQ_powerUps (s : State) (i : QReg) (pt : Point) : (s.writeQ i pt).powerUps = s.powerUps := rfl

/-! ### State.writeM -/

@[simp] theorem writeM_v (s : State) (x : Word) : (s.writeM x).v = s.v := rfl
@[simp] theorem writeM_validV (s : State) (x : Word) : (s.writeM x).validV = s.validV := rfl
@[simp] theorem writeM_q (s : State) (x : Word) : (s.writeM x).q = s.q := rfl
@[simp] theorem writeM_validP (s : State) (x : Word) : (s.writeM x).validP = s.validP := rfl
@[simp] theorem writeM_m (s : State) (x : Word) : (s.writeM x).m = x := rfl
@[simp] theorem writeM_validM (s : State) (x : Word) : (s.writeM x).validM = true := rfl
@[simp] theorem writeM_f (s : State) (x : Word) : (s.writeM x).f = s.f := rfl
@[simp] theorem writeM_pc (s : State) (x : Word) : (s.writeM x).pc = s.pc := rfl
@[simp] theorem writeM_runState (s : State) (x : Word) : (s.writeM x).runState = s.runState := rfl
@[simp] theorem writeM_cause (s : State) (x : Word) : (s.writeM x).cause = s.cause := rfl
@[simp] theorem writeM_faultPc (s : State) (x : Word) : (s.writeM x).faultPc = s.faultPc := rfl
@[simp] theorem writeM_faultInstr (s : State) (x : Word) : (s.writeM x).faultInstr = s.faultInstr := rfl
@[simp] theorem writeM_startPc (s : State) (x : Word) : (s.writeM x).startPc = s.startPc := rfl
@[simp] theorem writeM_ie (s : State) (x : Word) : (s.writeM x).ie = s.ie := rfl
@[simp] theorem writeM_irqPending (s : State) (x : Word) : (s.writeM x).irqPending = s.irqPending := rfl
@[simp] theorem writeM_cmd (s : State) (x : Word) : (s.writeM x).cmd = s.cmd := rfl
@[simp] theorem writeM_data (s : State) (x : Word) : (s.writeM x).data = s.data := rfl
@[simp] theorem writeM_schedule (s : State) (x : Word) : (s.writeM x).schedule = s.schedule := rfl
@[simp] theorem writeM_stream (s : State) (x : Word) : (s.writeM x).stream = s.stream := rfl
@[simp] theorem writeM_resp (s : State) (x : Word) : (s.writeM x).resp = s.resp := rfl
@[simp] theorem writeM_trail (s : State) (x : Word) : (s.writeM x).trail = s.trail := rfl
@[simp] theorem writeM_draws (s : State) (x : Word) : (s.writeM x).draws = s.draws := rfl
@[simp] theorem writeM_powerUps (s : State) (x : Word) : (s.writeM x).powerUps = s.powerUps := rfl

/-! ### State.setF -/

@[simp] theorem setF_v (s : State) (b : Bool) : (s.setF b).v = s.v := rfl
@[simp] theorem setF_validV (s : State) (b : Bool) : (s.setF b).validV = s.validV := rfl
@[simp] theorem setF_q (s : State) (b : Bool) : (s.setF b).q = s.q := rfl
@[simp] theorem setF_validP (s : State) (b : Bool) : (s.setF b).validP = s.validP := rfl
@[simp] theorem setF_m (s : State) (b : Bool) : (s.setF b).m = s.m := rfl
@[simp] theorem setF_validM (s : State) (b : Bool) : (s.setF b).validM = s.validM := rfl
@[simp] theorem setF_f (s : State) (b : Bool) : (s.setF b).f = b := rfl
@[simp] theorem setF_pc (s : State) (b : Bool) : (s.setF b).pc = s.pc := rfl
@[simp] theorem setF_runState (s : State) (b : Bool) : (s.setF b).runState = s.runState := rfl
@[simp] theorem setF_cause (s : State) (b : Bool) : (s.setF b).cause = s.cause := rfl
@[simp] theorem setF_faultPc (s : State) (b : Bool) : (s.setF b).faultPc = s.faultPc := rfl
@[simp] theorem setF_faultInstr (s : State) (b : Bool) : (s.setF b).faultInstr = s.faultInstr := rfl
@[simp] theorem setF_startPc (s : State) (b : Bool) : (s.setF b).startPc = s.startPc := rfl
@[simp] theorem setF_ie (s : State) (b : Bool) : (s.setF b).ie = s.ie := rfl
@[simp] theorem setF_irqPending (s : State) (b : Bool) : (s.setF b).irqPending = s.irqPending := rfl
@[simp] theorem setF_cmd (s : State) (b : Bool) : (s.setF b).cmd = s.cmd := rfl
@[simp] theorem setF_data (s : State) (b : Bool) : (s.setF b).data = s.data := rfl
@[simp] theorem setF_schedule (s : State) (b : Bool) : (s.setF b).schedule = s.schedule := rfl
@[simp] theorem setF_stream (s : State) (b : Bool) : (s.setF b).stream = s.stream := rfl
@[simp] theorem setF_resp (s : State) (b : Bool) : (s.setF b).resp = s.resp := rfl
@[simp] theorem setF_trail (s : State) (b : Bool) : (s.setF b).trail = s.trail := rfl
@[simp] theorem setF_draws (s : State) (b : Bool) : (s.setF b).draws = s.draws := rfl
@[simp] theorem setF_powerUps (s : State) (b : Bool) : (s.setF b).powerUps = s.powerUps := rfl

/-! ### State.advance -/

@[simp] theorem advance_v (s : State) : (s.advance).v = s.v := rfl
@[simp] theorem advance_validV (s : State) : (s.advance).validV = s.validV := rfl
@[simp] theorem advance_q (s : State) : (s.advance).q = s.q := rfl
@[simp] theorem advance_validP (s : State) : (s.advance).validP = s.validP := rfl
@[simp] theorem advance_m (s : State) : (s.advance).m = s.m := rfl
@[simp] theorem advance_validM (s : State) : (s.advance).validM = s.validM := rfl
@[simp] theorem advance_f (s : State) : (s.advance).f = s.f := rfl
@[simp] theorem advance_pc (s : State) : (s.advance).pc = s.pc + 1#9 := rfl
@[simp] theorem advance_runState (s : State) : (s.advance).runState = s.runState := rfl
@[simp] theorem advance_cause (s : State) : (s.advance).cause = s.cause := rfl
@[simp] theorem advance_faultPc (s : State) : (s.advance).faultPc = s.faultPc := rfl
@[simp] theorem advance_faultInstr (s : State) : (s.advance).faultInstr = s.faultInstr := rfl
@[simp] theorem advance_startPc (s : State) : (s.advance).startPc = s.startPc := rfl
@[simp] theorem advance_ie (s : State) : (s.advance).ie = s.ie := rfl
@[simp] theorem advance_irqPending (s : State) : (s.advance).irqPending = s.irqPending := rfl
@[simp] theorem advance_cmd (s : State) : (s.advance).cmd = s.cmd := rfl
@[simp] theorem advance_data (s : State) : (s.advance).data = s.data := rfl
@[simp] theorem advance_schedule (s : State) : (s.advance).schedule = s.schedule := rfl
@[simp] theorem advance_stream (s : State) : (s.advance).stream = s.stream := rfl
@[simp] theorem advance_resp (s : State) : (s.advance).resp = s.resp := rfl
@[simp] theorem advance_trail (s : State) : (s.advance).trail = s.trail := rfl
@[simp] theorem advance_draws (s : State) : (s.advance).draws = s.draws := rfl
@[simp] theorem advance_powerUps (s : State) : (s.advance).powerUps = s.powerUps := rfl

/-! ### State.jump -/

@[simp] theorem jump_v (s : State) (target : BitVec 8) : (s.jump target).v = s.v := rfl
@[simp] theorem jump_validV (s : State) (target : BitVec 8) : (s.jump target).validV = s.validV := rfl
@[simp] theorem jump_q (s : State) (target : BitVec 8) : (s.jump target).q = s.q := rfl
@[simp] theorem jump_validP (s : State) (target : BitVec 8) : (s.jump target).validP = s.validP := rfl
@[simp] theorem jump_m (s : State) (target : BitVec 8) : (s.jump target).m = s.m := rfl
@[simp] theorem jump_validM (s : State) (target : BitVec 8) : (s.jump target).validM = s.validM := rfl
@[simp] theorem jump_f (s : State) (target : BitVec 8) : (s.jump target).f = s.f := rfl
@[simp] theorem jump_pc (s : State) (target : BitVec 8) : (s.jump target).pc = target.setWidth 9 := rfl
@[simp] theorem jump_runState (s : State) (target : BitVec 8) : (s.jump target).runState = s.runState := rfl
@[simp] theorem jump_cause (s : State) (target : BitVec 8) : (s.jump target).cause = s.cause := rfl
@[simp] theorem jump_faultPc (s : State) (target : BitVec 8) : (s.jump target).faultPc = s.faultPc := rfl
@[simp] theorem jump_faultInstr (s : State) (target : BitVec 8) : (s.jump target).faultInstr = s.faultInstr := rfl
@[simp] theorem jump_startPc (s : State) (target : BitVec 8) : (s.jump target).startPc = s.startPc := rfl
@[simp] theorem jump_ie (s : State) (target : BitVec 8) : (s.jump target).ie = s.ie := rfl
@[simp] theorem jump_irqPending (s : State) (target : BitVec 8) : (s.jump target).irqPending = s.irqPending := rfl
@[simp] theorem jump_cmd (s : State) (target : BitVec 8) : (s.jump target).cmd = s.cmd := rfl
@[simp] theorem jump_data (s : State) (target : BitVec 8) : (s.jump target).data = s.data := rfl
@[simp] theorem jump_schedule (s : State) (target : BitVec 8) : (s.jump target).schedule = s.schedule := rfl
@[simp] theorem jump_stream (s : State) (target : BitVec 8) : (s.jump target).stream = s.stream := rfl
@[simp] theorem jump_resp (s : State) (target : BitVec 8) : (s.jump target).resp = s.resp := rfl
@[simp] theorem jump_trail (s : State) (target : BitVec 8) : (s.jump target).trail = s.trail := rfl
@[simp] theorem jump_draws (s : State) (target : BitVec 8) : (s.jump target).draws = s.draws := rfl
@[simp] theorem jump_powerUps (s : State) (target : BitVec 8) : (s.jump target).powerUps = s.powerUps := rfl

/-! ### State.raise -/

@[simp] theorem raise_v (s : State) (e : Exc) (w : CmdWord) : (s.raise e w).v = s.v := rfl
@[simp] theorem raise_validV (s : State) (e : Exc) (w : CmdWord) : (s.raise e w).validV = s.validV := rfl
@[simp] theorem raise_q (s : State) (e : Exc) (w : CmdWord) : (s.raise e w).q = s.q := rfl
@[simp] theorem raise_validP (s : State) (e : Exc) (w : CmdWord) : (s.raise e w).validP = s.validP := rfl
@[simp] theorem raise_m (s : State) (e : Exc) (w : CmdWord) : (s.raise e w).m = s.m := rfl
@[simp] theorem raise_validM (s : State) (e : Exc) (w : CmdWord) : (s.raise e w).validM = s.validM := rfl
@[simp] theorem raise_f (s : State) (e : Exc) (w : CmdWord) : (s.raise e w).f = s.f := rfl
@[simp] theorem raise_pc (s : State) (e : Exc) (w : CmdWord) : (s.raise e w).pc = s.pc := rfl
@[simp] theorem raise_runState (s : State) (e : Exc) (w : CmdWord) : (s.raise e w).runState = .fault := rfl
@[simp] theorem raise_cause (s : State) (e : Exc) (w : CmdWord) : (s.raise e w).cause = e.code := rfl
@[simp] theorem raise_faultPc (s : State) (e : Exc) (w : CmdWord) : (s.raise e w).faultPc = s.pc := rfl
@[simp] theorem raise_faultInstr (s : State) (e : Exc) (w : CmdWord) : (s.raise e w).faultInstr = w := rfl
@[simp] theorem raise_startPc (s : State) (e : Exc) (w : CmdWord) : (s.raise e w).startPc = s.startPc := rfl
@[simp] theorem raise_ie (s : State) (e : Exc) (w : CmdWord) : (s.raise e w).ie = s.ie := rfl
@[simp] theorem raise_irqPending (s : State) (e : Exc) (w : CmdWord) : (s.raise e w).irqPending = true := rfl
@[simp] theorem raise_cmd (s : State) (e : Exc) (w : CmdWord) : (s.raise e w).cmd = s.cmd := rfl
@[simp] theorem raise_data (s : State) (e : Exc) (w : CmdWord) : (s.raise e w).data = s.data := rfl
@[simp] theorem raise_schedule (s : State) (e : Exc) (w : CmdWord) : (s.raise e w).schedule = s.schedule := rfl
@[simp] theorem raise_stream (s : State) (e : Exc) (w : CmdWord) : (s.raise e w).stream = s.stream := rfl
@[simp] theorem raise_resp (s : State) (e : Exc) (w : CmdWord) : (s.raise e w).resp = s.resp := rfl
@[simp] theorem raise_trail (s : State) (e : Exc) (w : CmdWord) : (s.raise e w).trail = s.trail := rfl
@[simp] theorem raise_draws (s : State) (e : Exc) (w : CmdWord) : (s.raise e w).draws = s.draws := rfl
@[simp] theorem raise_powerUps (s : State) (e : Exc) (w : CmdWord) : (s.raise e w).powerUps = s.powerUps := rfl

/-! ### State.halted -/

@[simp] theorem halted_v (s : State) : (s.halted).v = s.v := rfl
@[simp] theorem halted_validV (s : State) : (s.halted).validV = s.validV := rfl
@[simp] theorem halted_q (s : State) : (s.halted).q = s.q := rfl
@[simp] theorem halted_validP (s : State) : (s.halted).validP = s.validP := rfl
@[simp] theorem halted_m (s : State) : (s.halted).m = s.m := rfl
@[simp] theorem halted_validM (s : State) : (s.halted).validM = s.validM := rfl
@[simp] theorem halted_f (s : State) : (s.halted).f = s.f := rfl
@[simp] theorem halted_pc (s : State) : (s.halted).pc = s.pc := rfl
@[simp] theorem halted_runState (s : State) : (s.halted).runState = .done := rfl
@[simp] theorem halted_cause (s : State) : (s.halted).cause = s.cause := rfl
@[simp] theorem halted_faultPc (s : State) : (s.halted).faultPc = s.faultPc := rfl
@[simp] theorem halted_faultInstr (s : State) : (s.halted).faultInstr = s.faultInstr := rfl
@[simp] theorem halted_startPc (s : State) : (s.halted).startPc = s.startPc := rfl
@[simp] theorem halted_ie (s : State) : (s.halted).ie = s.ie := rfl
@[simp] theorem halted_irqPending (s : State) : (s.halted).irqPending = true := rfl
@[simp] theorem halted_cmd (s : State) : (s.halted).cmd = s.cmd := rfl
@[simp] theorem halted_data (s : State) : (s.halted).data = s.data := rfl
@[simp] theorem halted_schedule (s : State) : (s.halted).schedule = s.schedule := rfl
@[simp] theorem halted_stream (s : State) : (s.halted).stream = s.stream := rfl
@[simp] theorem halted_resp (s : State) : (s.halted).resp = s.resp := rfl
@[simp] theorem halted_trail (s : State) : (s.halted).trail = s.trail := rfl
@[simp] theorem halted_draws (s : State) : (s.halted).draws = s.draws := rfl
@[simp] theorem halted_powerUps (s : State) : (s.halted).powerUps = s.powerUps := rfl

/-! ### State.setCmdWord -/

@[simp] theorem setCmdWord_v (s : State) (i : Nat) (w : CmdWord) : (s.setCmdWord i w).v = s.v := rfl
@[simp] theorem setCmdWord_validV (s : State) (i : Nat) (w : CmdWord) : (s.setCmdWord i w).validV = s.validV := rfl
@[simp] theorem setCmdWord_q (s : State) (i : Nat) (w : CmdWord) : (s.setCmdWord i w).q = s.q := rfl
@[simp] theorem setCmdWord_validP (s : State) (i : Nat) (w : CmdWord) : (s.setCmdWord i w).validP = s.validP := rfl
@[simp] theorem setCmdWord_m (s : State) (i : Nat) (w : CmdWord) : (s.setCmdWord i w).m = s.m := rfl
@[simp] theorem setCmdWord_validM (s : State) (i : Nat) (w : CmdWord) : (s.setCmdWord i w).validM = s.validM := rfl
@[simp] theorem setCmdWord_f (s : State) (i : Nat) (w : CmdWord) : (s.setCmdWord i w).f = s.f := rfl
@[simp] theorem setCmdWord_pc (s : State) (i : Nat) (w : CmdWord) : (s.setCmdWord i w).pc = s.pc := rfl
@[simp] theorem setCmdWord_runState (s : State) (i : Nat) (w : CmdWord) : (s.setCmdWord i w).runState = s.runState := rfl
@[simp] theorem setCmdWord_cause (s : State) (i : Nat) (w : CmdWord) : (s.setCmdWord i w).cause = s.cause := rfl
@[simp] theorem setCmdWord_faultPc (s : State) (i : Nat) (w : CmdWord) : (s.setCmdWord i w).faultPc = s.faultPc := rfl
@[simp] theorem setCmdWord_faultInstr (s : State) (i : Nat) (w : CmdWord) : (s.setCmdWord i w).faultInstr = s.faultInstr := rfl
@[simp] theorem setCmdWord_startPc (s : State) (i : Nat) (w : CmdWord) : (s.setCmdWord i w).startPc = s.startPc := rfl
@[simp] theorem setCmdWord_ie (s : State) (i : Nat) (w : CmdWord) : (s.setCmdWord i w).ie = s.ie := rfl
@[simp] theorem setCmdWord_irqPending (s : State) (i : Nat) (w : CmdWord) : (s.setCmdWord i w).irqPending = s.irqPending := rfl
@[simp] theorem setCmdWord_cmd (s : State) (i : Nat) (w : CmdWord) : (s.setCmdWord i w).cmd = Ram.set s.cmd i w := rfl
@[simp] theorem setCmdWord_data (s : State) (i : Nat) (w : CmdWord) : (s.setCmdWord i w).data = s.data := rfl
@[simp] theorem setCmdWord_schedule (s : State) (i : Nat) (w : CmdWord) : (s.setCmdWord i w).schedule = s.schedule := rfl
@[simp] theorem setCmdWord_stream (s : State) (i : Nat) (w : CmdWord) : (s.setCmdWord i w).stream = s.stream := rfl
@[simp] theorem setCmdWord_resp (s : State) (i : Nat) (w : CmdWord) : (s.setCmdWord i w).resp = s.resp := rfl
@[simp] theorem setCmdWord_trail (s : State) (i : Nat) (w : CmdWord) : (s.setCmdWord i w).trail = s.trail := rfl
@[simp] theorem setCmdWord_draws (s : State) (i : Nat) (w : CmdWord) : (s.setCmdWord i w).draws = s.draws := rfl
@[simp] theorem setCmdWord_powerUps (s : State) (i : Nat) (w : CmdWord) : (s.setCmdWord i w).powerUps = s.powerUps := rfl

/-! ### State.writeByte -/

@[simp] theorem writeByte_v (s : State) (a : Nat) (b : Byte) : (s.writeByte a b).v = s.v := rfl
@[simp] theorem writeByte_validV (s : State) (a : Nat) (b : Byte) : (s.writeByte a b).validV = s.validV := rfl
@[simp] theorem writeByte_q (s : State) (a : Nat) (b : Byte) : (s.writeByte a b).q = s.q := rfl
@[simp] theorem writeByte_validP (s : State) (a : Nat) (b : Byte) : (s.writeByte a b).validP = s.validP := rfl
@[simp] theorem writeByte_m (s : State) (a : Nat) (b : Byte) : (s.writeByte a b).m = s.m := rfl
@[simp] theorem writeByte_validM (s : State) (a : Nat) (b : Byte) : (s.writeByte a b).validM = s.validM := rfl
@[simp] theorem writeByte_f (s : State) (a : Nat) (b : Byte) : (s.writeByte a b).f = s.f := rfl
@[simp] theorem writeByte_pc (s : State) (a : Nat) (b : Byte) : (s.writeByte a b).pc = s.pc := rfl
@[simp] theorem writeByte_runState (s : State) (a : Nat) (b : Byte) : (s.writeByte a b).runState = s.runState := rfl
@[simp] theorem writeByte_cause (s : State) (a : Nat) (b : Byte) : (s.writeByte a b).cause = s.cause := rfl
@[simp] theorem writeByte_faultPc (s : State) (a : Nat) (b : Byte) : (s.writeByte a b).faultPc = s.faultPc := rfl
@[simp] theorem writeByte_faultInstr (s : State) (a : Nat) (b : Byte) : (s.writeByte a b).faultInstr = s.faultInstr := rfl
@[simp] theorem writeByte_startPc (s : State) (a : Nat) (b : Byte) : (s.writeByte a b).startPc = s.startPc := rfl
@[simp] theorem writeByte_ie (s : State) (a : Nat) (b : Byte) : (s.writeByte a b).ie = s.ie := rfl
@[simp] theorem writeByte_irqPending (s : State) (a : Nat) (b : Byte) : (s.writeByte a b).irqPending = s.irqPending := rfl
@[simp] theorem writeByte_cmd (s : State) (a : Nat) (b : Byte) : (s.writeByte a b).cmd = s.cmd := rfl
@[simp] theorem writeByte_data (s : State) (a : Nat) (b : Byte) : (s.writeByte a b).data = Ram.set (n := 8) s.data a b := rfl
@[simp] theorem writeByte_schedule (s : State) (a : Nat) (b : Byte) : (s.writeByte a b).schedule = s.schedule := rfl
@[simp] theorem writeByte_stream (s : State) (a : Nat) (b : Byte) : (s.writeByte a b).stream = s.stream := rfl
@[simp] theorem writeByte_resp (s : State) (a : Nat) (b : Byte) : (s.writeByte a b).resp = s.resp := rfl
@[simp] theorem writeByte_trail (s : State) (a : Nat) (b : Byte) : (s.writeByte a b).trail = s.trail := rfl
@[simp] theorem writeByte_draws (s : State) (a : Nat) (b : Byte) : (s.writeByte a b).draws = s.draws := rfl
@[simp] theorem writeByte_powerUps (s : State) (a : Nat) (b : Byte) : (s.writeByte a b).powerUps = s.powerUps := rfl

/-! ### State.go -/

@[simp] theorem go_v (s : State) : (s.go).v = s.v := rfl
@[simp] theorem go_validV (s : State) : (s.go).validV = s.validV := rfl
@[simp] theorem go_q (s : State) : (s.go).q = s.q := rfl
@[simp] theorem go_validP (s : State) : (s.go).validP = s.validP := rfl
@[simp] theorem go_m (s : State) : (s.go).m = s.m := rfl
@[simp] theorem go_validM (s : State) : (s.go).validM = s.validM := rfl
@[simp] theorem go_f (s : State) : (s.go).f = false := rfl
@[simp] theorem go_pc (s : State) : (s.go).pc = s.startPc.setWidth 9 := rfl
@[simp] theorem go_runState (s : State) : (s.go).runState = .busy := rfl
@[simp] theorem go_cause (s : State) : (s.go).cause = 0#4 := rfl
@[simp] theorem go_faultPc (s : State) : (s.go).faultPc = 0#9 := rfl
@[simp] theorem go_faultInstr (s : State) : (s.go).faultInstr = 0#32 := rfl
@[simp] theorem go_startPc (s : State) : (s.go).startPc = s.startPc := rfl
@[simp] theorem go_ie (s : State) : (s.go).ie = s.ie := rfl
@[simp] theorem go_irqPending (s : State) : (s.go).irqPending = s.irqPending := rfl
@[simp] theorem go_cmd (s : State) : (s.go).cmd = s.cmd := rfl
@[simp] theorem go_data (s : State) : (s.go).data = s.data := rfl
@[simp] theorem go_schedule (s : State) : (s.go).schedule = s.schedule := rfl
@[simp] theorem go_stream (s : State) : (s.go).stream = s.stream := rfl
@[simp] theorem go_resp (s : State) : (s.go).resp = s.resp := rfl
@[simp] theorem go_trail (s : State) : (s.go).trail = [s.startPc.setWidth 9] := rfl
@[simp] theorem go_draws (s : State) : (s.go).draws = s.draws := rfl
@[simp] theorem go_powerUps (s : State) : (s.go).powerUps = s.powerUps := rfl

/-! ### State.softReset -/

@[simp] theorem softReset_v (s : State) : (s.softReset).v = State.reset.v := rfl
@[simp] theorem softReset_validV (s : State) : (s.softReset).validV = State.reset.validV := rfl
@[simp] theorem softReset_q (s : State) : (s.softReset).q = State.reset.q := rfl
@[simp] theorem softReset_validP (s : State) : (s.softReset).validP = State.reset.validP := rfl
@[simp] theorem softReset_m (s : State) : (s.softReset).m = State.reset.m := rfl
@[simp] theorem softReset_validM (s : State) : (s.softReset).validM = State.reset.validM := rfl
@[simp] theorem softReset_f (s : State) : (s.softReset).f = State.reset.f := rfl
@[simp] theorem softReset_pc (s : State) : (s.softReset).pc = State.reset.pc := rfl
@[simp] theorem softReset_runState (s : State) : (s.softReset).runState = State.reset.runState := rfl
@[simp] theorem softReset_cause (s : State) : (s.softReset).cause = State.reset.cause := rfl
@[simp] theorem softReset_faultPc (s : State) : (s.softReset).faultPc = State.reset.faultPc := rfl
@[simp] theorem softReset_faultInstr (s : State) : (s.softReset).faultInstr = State.reset.faultInstr := rfl
@[simp] theorem softReset_startPc (s : State) : (s.softReset).startPc = State.reset.startPc := rfl
@[simp] theorem softReset_ie (s : State) : (s.softReset).ie = State.reset.ie := rfl
@[simp] theorem softReset_irqPending (s : State) : (s.softReset).irqPending = State.reset.irqPending := rfl
@[simp] theorem softReset_cmd (s : State) : (s.softReset).cmd = s.cmd := rfl
@[simp] theorem softReset_data (s : State) : (s.softReset).data = s.data := rfl
@[simp] theorem softReset_schedule (s : State) : (s.softReset).schedule = s.schedule := rfl
@[simp] theorem softReset_stream (s : State) : (s.softReset).stream = s.stream := rfl
@[simp] theorem softReset_resp (s : State) : (s.softReset).resp = s.resp := rfl
@[simp] theorem softReset_trail (s : State) : (s.softReset).trail = State.reset.trail := rfl
@[simp] theorem softReset_draws (s : State) : (s.softReset).draws = s.draws := rfl
@[simp] theorem softReset_powerUps (s : State) : (s.softReset).powerUps = s.powerUps := rfl

/-! ### State.hardReset -/

@[simp] theorem hardReset_v (s : State) : (s.hardReset).v = State.reset.v := rfl
@[simp] theorem hardReset_validV (s : State) : (s.hardReset).validV = State.reset.validV := rfl
@[simp] theorem hardReset_q (s : State) : (s.hardReset).q = State.reset.q := rfl
@[simp] theorem hardReset_validP (s : State) : (s.hardReset).validP = State.reset.validP := rfl
@[simp] theorem hardReset_m (s : State) : (s.hardReset).m = State.reset.m := rfl
@[simp] theorem hardReset_validM (s : State) : (s.hardReset).validM = State.reset.validM := rfl
@[simp] theorem hardReset_f (s : State) : (s.hardReset).f = State.reset.f := rfl
@[simp] theorem hardReset_pc (s : State) : (s.hardReset).pc = State.reset.pc := rfl
@[simp] theorem hardReset_runState (s : State) : (s.hardReset).runState = State.reset.runState := rfl
@[simp] theorem hardReset_cause (s : State) : (s.hardReset).cause = State.reset.cause := rfl
@[simp] theorem hardReset_faultPc (s : State) : (s.hardReset).faultPc = State.reset.faultPc := rfl
@[simp] theorem hardReset_faultInstr (s : State) : (s.hardReset).faultInstr = State.reset.faultInstr := rfl
@[simp] theorem hardReset_startPc (s : State) : (s.hardReset).startPc = State.reset.startPc := rfl
@[simp] theorem hardReset_ie (s : State) : (s.hardReset).ie = State.reset.ie := rfl
@[simp] theorem hardReset_irqPending (s : State) : (s.hardReset).irqPending = State.reset.irqPending := rfl
@[simp] theorem hardReset_cmd (s : State) : (s.hardReset).cmd = State.reset.cmd := rfl
@[simp] theorem hardReset_data (s : State) : (s.hardReset).data = State.reset.data := rfl
@[simp] theorem hardReset_schedule (s : State) : (s.hardReset).schedule = s.schedule := rfl
@[simp] theorem hardReset_stream (s : State) : (s.hardReset).stream = s.stream := rfl
@[simp] theorem hardReset_resp (s : State) : (s.hardReset).resp = State.reset.resp := rfl
@[simp] theorem hardReset_trail (s : State) : (s.hardReset).trail = State.reset.trail := rfl
@[simp] theorem hardReset_draws (s : State) : (s.hardReset).draws = s.draws := rfl
@[simp] theorem hardReset_powerUps (s : State) : (s.hardReset).powerUps = s.powerUps + 1 := rfl

/-! ### State.popMove -/

@[simp] theorem popMove_v (s : State) : (s.popMove).v = s.v := rfl
@[simp] theorem popMove_validV (s : State) : (s.popMove).validV = s.validV := rfl
@[simp] theorem popMove_q (s : State) : (s.popMove).q = s.q := rfl
@[simp] theorem popMove_validP (s : State) : (s.popMove).validP = s.validP := rfl
@[simp] theorem popMove_m (s : State) : (s.popMove).m = s.m := rfl
@[simp] theorem popMove_validM (s : State) : (s.popMove).validM = s.validM := rfl
@[simp] theorem popMove_f (s : State) : (s.popMove).f = s.f := rfl
@[simp] theorem popMove_pc (s : State) : (s.popMove).pc = s.pc := rfl
@[simp] theorem popMove_runState (s : State) : (s.popMove).runState = s.runState := rfl
@[simp] theorem popMove_cause (s : State) : (s.popMove).cause = s.cause := rfl
@[simp] theorem popMove_faultPc (s : State) : (s.popMove).faultPc = s.faultPc := rfl
@[simp] theorem popMove_faultInstr (s : State) : (s.popMove).faultInstr = s.faultInstr := rfl
@[simp] theorem popMove_startPc (s : State) : (s.popMove).startPc = s.startPc := rfl
@[simp] theorem popMove_ie (s : State) : (s.popMove).ie = s.ie := rfl
@[simp] theorem popMove_irqPending (s : State) : (s.popMove).irqPending = s.irqPending := rfl
@[simp] theorem popMove_cmd (s : State) : (s.popMove).cmd = s.cmd := rfl
@[simp] theorem popMove_data (s : State) : (s.popMove).data = s.data := rfl
@[simp] theorem popMove_schedule (s : State) : (s.popMove).schedule = s.pending.1.tail := rfl
@[simp] theorem popMove_stream (s : State) : (s.popMove).stream = s.pending.2 := rfl
@[simp] theorem popMove_resp (s : State) : (s.popMove).resp = s.resp := rfl
@[simp] theorem popMove_trail (s : State) : (s.popMove).trail = s.trail := rfl
@[simp] theorem popMove_draws (s : State) : (s.popMove).draws = s.draws := rfl
@[simp] theorem popMove_powerUps (s : State) : (s.popMove).powerUps = s.powerUps := rfl

/-! ### State.memWrite: only the data RAM -/

@[simp] theorem memWrite_v : ∀ (bs : List Byte) (s : State) (a : Nat), (s.memWrite a bs).v = s.v
  | [], _, _ => rfl
  | b :: bs, s, a => by rw [State.memWrite, memWrite_v bs]; rfl
@[simp] theorem memWrite_validV : ∀ (bs : List Byte) (s : State) (a : Nat), (s.memWrite a bs).validV = s.validV
  | [], _, _ => rfl
  | b :: bs, s, a => by rw [State.memWrite, memWrite_validV bs]; rfl
@[simp] theorem memWrite_q : ∀ (bs : List Byte) (s : State) (a : Nat), (s.memWrite a bs).q = s.q
  | [], _, _ => rfl
  | b :: bs, s, a => by rw [State.memWrite, memWrite_q bs]; rfl
@[simp] theorem memWrite_validP : ∀ (bs : List Byte) (s : State) (a : Nat), (s.memWrite a bs).validP = s.validP
  | [], _, _ => rfl
  | b :: bs, s, a => by rw [State.memWrite, memWrite_validP bs]; rfl
@[simp] theorem memWrite_m : ∀ (bs : List Byte) (s : State) (a : Nat), (s.memWrite a bs).m = s.m
  | [], _, _ => rfl
  | b :: bs, s, a => by rw [State.memWrite, memWrite_m bs]; rfl
@[simp] theorem memWrite_validM : ∀ (bs : List Byte) (s : State) (a : Nat), (s.memWrite a bs).validM = s.validM
  | [], _, _ => rfl
  | b :: bs, s, a => by rw [State.memWrite, memWrite_validM bs]; rfl
@[simp] theorem memWrite_f : ∀ (bs : List Byte) (s : State) (a : Nat), (s.memWrite a bs).f = s.f
  | [], _, _ => rfl
  | b :: bs, s, a => by rw [State.memWrite, memWrite_f bs]; rfl
@[simp] theorem memWrite_pc : ∀ (bs : List Byte) (s : State) (a : Nat), (s.memWrite a bs).pc = s.pc
  | [], _, _ => rfl
  | b :: bs, s, a => by rw [State.memWrite, memWrite_pc bs]; rfl
@[simp] theorem memWrite_runState : ∀ (bs : List Byte) (s : State) (a : Nat), (s.memWrite a bs).runState = s.runState
  | [], _, _ => rfl
  | b :: bs, s, a => by rw [State.memWrite, memWrite_runState bs]; rfl
@[simp] theorem memWrite_cause : ∀ (bs : List Byte) (s : State) (a : Nat), (s.memWrite a bs).cause = s.cause
  | [], _, _ => rfl
  | b :: bs, s, a => by rw [State.memWrite, memWrite_cause bs]; rfl
@[simp] theorem memWrite_faultPc : ∀ (bs : List Byte) (s : State) (a : Nat), (s.memWrite a bs).faultPc = s.faultPc
  | [], _, _ => rfl
  | b :: bs, s, a => by rw [State.memWrite, memWrite_faultPc bs]; rfl
@[simp] theorem memWrite_faultInstr : ∀ (bs : List Byte) (s : State) (a : Nat), (s.memWrite a bs).faultInstr = s.faultInstr
  | [], _, _ => rfl
  | b :: bs, s, a => by rw [State.memWrite, memWrite_faultInstr bs]; rfl
@[simp] theorem memWrite_startPc : ∀ (bs : List Byte) (s : State) (a : Nat), (s.memWrite a bs).startPc = s.startPc
  | [], _, _ => rfl
  | b :: bs, s, a => by rw [State.memWrite, memWrite_startPc bs]; rfl
@[simp] theorem memWrite_ie : ∀ (bs : List Byte) (s : State) (a : Nat), (s.memWrite a bs).ie = s.ie
  | [], _, _ => rfl
  | b :: bs, s, a => by rw [State.memWrite, memWrite_ie bs]; rfl
@[simp] theorem memWrite_irqPending : ∀ (bs : List Byte) (s : State) (a : Nat), (s.memWrite a bs).irqPending = s.irqPending
  | [], _, _ => rfl
  | b :: bs, s, a => by rw [State.memWrite, memWrite_irqPending bs]; rfl
@[simp] theorem memWrite_cmd : ∀ (bs : List Byte) (s : State) (a : Nat), (s.memWrite a bs).cmd = s.cmd
  | [], _, _ => rfl
  | b :: bs, s, a => by rw [State.memWrite, memWrite_cmd bs]; rfl
@[simp] theorem memWrite_schedule : ∀ (bs : List Byte) (s : State) (a : Nat), (s.memWrite a bs).schedule = s.schedule
  | [], _, _ => rfl
  | b :: bs, s, a => by rw [State.memWrite, memWrite_schedule bs]; rfl
@[simp] theorem memWrite_stream : ∀ (bs : List Byte) (s : State) (a : Nat), (s.memWrite a bs).stream = s.stream
  | [], _, _ => rfl
  | b :: bs, s, a => by rw [State.memWrite, memWrite_stream bs]; rfl
@[simp] theorem memWrite_resp : ∀ (bs : List Byte) (s : State) (a : Nat), (s.memWrite a bs).resp = s.resp
  | [], _, _ => rfl
  | b :: bs, s, a => by rw [State.memWrite, memWrite_resp bs]; rfl
@[simp] theorem memWrite_trail : ∀ (bs : List Byte) (s : State) (a : Nat), (s.memWrite a bs).trail = s.trail
  | [], _, _ => rfl
  | b :: bs, s, a => by rw [State.memWrite, memWrite_trail bs]; rfl
@[simp] theorem memWrite_draws : ∀ (bs : List Byte) (s : State) (a : Nat), (s.memWrite a bs).draws = s.draws
  | [], _, _ => rfl
  | b :: bs, s, a => by rw [State.memWrite, memWrite_draws bs]; rfl
@[simp] theorem memWrite_powerUps : ∀ (bs : List Byte) (s : State) (a : Nat), (s.memWrite a bs).powerUps = s.powerUps
  | [], _, _ => rfl
  | b :: bs, s, a => by rw [State.memWrite, memWrite_powerUps bs]; rfl

/-! ### State.setDataWord: only the data RAM -/

@[simp] theorem setDataWord_v (s : State) (j : Nat) (d : CmdWord) : (s.setDataWord j d).v = s.v := memWrite_v _ _ _
@[simp] theorem setDataWord_validV (s : State) (j : Nat) (d : CmdWord) : (s.setDataWord j d).validV = s.validV := memWrite_validV _ _ _
@[simp] theorem setDataWord_q (s : State) (j : Nat) (d : CmdWord) : (s.setDataWord j d).q = s.q := memWrite_q _ _ _
@[simp] theorem setDataWord_validP (s : State) (j : Nat) (d : CmdWord) : (s.setDataWord j d).validP = s.validP := memWrite_validP _ _ _
@[simp] theorem setDataWord_m (s : State) (j : Nat) (d : CmdWord) : (s.setDataWord j d).m = s.m := memWrite_m _ _ _
@[simp] theorem setDataWord_validM (s : State) (j : Nat) (d : CmdWord) : (s.setDataWord j d).validM = s.validM := memWrite_validM _ _ _
@[simp] theorem setDataWord_f (s : State) (j : Nat) (d : CmdWord) : (s.setDataWord j d).f = s.f := memWrite_f _ _ _
@[simp] theorem setDataWord_pc (s : State) (j : Nat) (d : CmdWord) : (s.setDataWord j d).pc = s.pc := memWrite_pc _ _ _
@[simp] theorem setDataWord_runState (s : State) (j : Nat) (d : CmdWord) : (s.setDataWord j d).runState = s.runState := memWrite_runState _ _ _
@[simp] theorem setDataWord_cause (s : State) (j : Nat) (d : CmdWord) : (s.setDataWord j d).cause = s.cause := memWrite_cause _ _ _
@[simp] theorem setDataWord_faultPc (s : State) (j : Nat) (d : CmdWord) : (s.setDataWord j d).faultPc = s.faultPc := memWrite_faultPc _ _ _
@[simp] theorem setDataWord_faultInstr (s : State) (j : Nat) (d : CmdWord) : (s.setDataWord j d).faultInstr = s.faultInstr := memWrite_faultInstr _ _ _
@[simp] theorem setDataWord_startPc (s : State) (j : Nat) (d : CmdWord) : (s.setDataWord j d).startPc = s.startPc := memWrite_startPc _ _ _
@[simp] theorem setDataWord_ie (s : State) (j : Nat) (d : CmdWord) : (s.setDataWord j d).ie = s.ie := memWrite_ie _ _ _
@[simp] theorem setDataWord_irqPending (s : State) (j : Nat) (d : CmdWord) : (s.setDataWord j d).irqPending = s.irqPending := memWrite_irqPending _ _ _
@[simp] theorem setDataWord_cmd (s : State) (j : Nat) (d : CmdWord) : (s.setDataWord j d).cmd = s.cmd := memWrite_cmd _ _ _
@[simp] theorem setDataWord_schedule (s : State) (j : Nat) (d : CmdWord) : (s.setDataWord j d).schedule = s.schedule := memWrite_schedule _ _ _
@[simp] theorem setDataWord_stream (s : State) (j : Nat) (d : CmdWord) : (s.setDataWord j d).stream = s.stream := memWrite_stream _ _ _
@[simp] theorem setDataWord_resp (s : State) (j : Nat) (d : CmdWord) : (s.setDataWord j d).resp = s.resp := memWrite_resp _ _ _
@[simp] theorem setDataWord_trail (s : State) (j : Nat) (d : CmdWord) : (s.setDataWord j d).trail = s.trail := memWrite_trail _ _ _
@[simp] theorem setDataWord_draws (s : State) (j : Nat) (d : CmdWord) : (s.setDataWord j d).draws = s.draws := memWrite_draws _ _ _
@[simp] theorem setDataWord_powerUps (s : State) (j : Nat) (d : CmdWord) : (s.setDataWord j d).powerUps = s.powerUps := memWrite_powerUps _ _ _

/-! ### State.noteReached: only the trail -/

@[simp] theorem noteReached_v (s : State) : s.noteReached.v = s.v := by
  unfold State.noteReached; split <;> rfl
@[simp] theorem noteReached_validV (s : State) : s.noteReached.validV = s.validV := by
  unfold State.noteReached; split <;> rfl
@[simp] theorem noteReached_q (s : State) : s.noteReached.q = s.q := by
  unfold State.noteReached; split <;> rfl
@[simp] theorem noteReached_validP (s : State) : s.noteReached.validP = s.validP := by
  unfold State.noteReached; split <;> rfl
@[simp] theorem noteReached_m (s : State) : s.noteReached.m = s.m := by
  unfold State.noteReached; split <;> rfl
@[simp] theorem noteReached_validM (s : State) : s.noteReached.validM = s.validM := by
  unfold State.noteReached; split <;> rfl
@[simp] theorem noteReached_f (s : State) : s.noteReached.f = s.f := by
  unfold State.noteReached; split <;> rfl
@[simp] theorem noteReached_pc (s : State) : s.noteReached.pc = s.pc := by
  unfold State.noteReached; split <;> rfl
@[simp] theorem noteReached_runState (s : State) : s.noteReached.runState = s.runState := by
  unfold State.noteReached; split <;> rfl
@[simp] theorem noteReached_cause (s : State) : s.noteReached.cause = s.cause := by
  unfold State.noteReached; split <;> rfl
@[simp] theorem noteReached_faultPc (s : State) : s.noteReached.faultPc = s.faultPc := by
  unfold State.noteReached; split <;> rfl
@[simp] theorem noteReached_faultInstr (s : State) : s.noteReached.faultInstr = s.faultInstr := by
  unfold State.noteReached; split <;> rfl
@[simp] theorem noteReached_startPc (s : State) : s.noteReached.startPc = s.startPc := by
  unfold State.noteReached; split <;> rfl
@[simp] theorem noteReached_ie (s : State) : s.noteReached.ie = s.ie := by
  unfold State.noteReached; split <;> rfl
@[simp] theorem noteReached_irqPending (s : State) : s.noteReached.irqPending = s.irqPending := by
  unfold State.noteReached; split <;> rfl
@[simp] theorem noteReached_cmd (s : State) : s.noteReached.cmd = s.cmd := by
  unfold State.noteReached; split <;> rfl
@[simp] theorem noteReached_data (s : State) : s.noteReached.data = s.data := by
  unfold State.noteReached; split <;> rfl
@[simp] theorem noteReached_schedule (s : State) : s.noteReached.schedule = s.schedule := by
  unfold State.noteReached; split <;> rfl
@[simp] theorem noteReached_stream (s : State) : s.noteReached.stream = s.stream := by
  unfold State.noteReached; split <;> rfl
@[simp] theorem noteReached_resp (s : State) : s.noteReached.resp = s.resp := by
  unfold State.noteReached; split <;> rfl
@[simp] theorem noteReached_draws (s : State) : s.noteReached.draws = s.draws := by
  unfold State.noteReached; split <;> rfl
@[simp] theorem noteReached_powerUps (s : State) : s.noteReached.powerUps = s.powerUps := by
  unfold State.noteReached; split <;> rfl

theorem noteReached_trail (s : State) :
    s.noteReached.trail = if s.runState = .busy then s.pc :: s.trail else [] := by
  unfold State.noteReached; split <;> rfl

end Sys2Proof.Laws
end

