-- ==== Sys2Proof/Laws/Ram.lean ====
section
/-! SUPPORT. RAM cells: read after write, and the canonical form every operation keeps; the same for the two RAMs of the
state. -/

namespace Sys2Proof.Laws

open Sys2Proof.Machine

@[simp] theorem ram_get?_nil {n : Nat} (k : Nat) : Ram.get? ([] : Ram n) k = none := rfl

/-- A read after a write: the value written at that location, what was there at every other. -/
theorem ram_get?_set {n : Nat} : ∀ (m : Ram n) (k j : Nat) (x : BitVec n),
    Ram.get? (Ram.set m k x) j = if k = j then some x else Ram.get? m j
  | [], k, j, x => rfl
  | (a, b) :: m, k, j, x => by
    unfold Ram.set
    split
    · rfl
    split
    · rename_i _ h
      subst h
      simp only [Ram.get?]
      split <;> simp_all
    · rename_i _ h
      simp only [Ram.get?, ram_get?_set m k j x]
      split
      · rename_i h2
        subst h2
        simp [h]
      · rfl

/-- The head of a written RAM is the location written or the head before. -/
theorem ram_head?_set {n : Nat} (m : Ram n) (k : Nat) (x : BitVec n) (c : Nat × BitVec n)
    (h : (Ram.set m k x).head? = some c) : c.1 = k ∨ m.head? = some c := by
  cases m with
  | nil => left; simp only [Ram.set, List.head?_cons, Option.some.injEq] at h; rw [← h]
  | cons d m =>
    obtain ⟨a, b⟩ := d
    unfold Ram.set at h
    split at h
    · simp at h; left; rw [← h]
    split at h
    · simp at h; left; rw [← h]
    · right; simpa using h

/-- A write at a location in range keeps the canonical form. -/
theorem ram_wf_set {n : Nat} {bound : Nat} : ∀ (m : Ram n) (k : Nat) (x : BitVec n), k < bound →
    Ram.wf bound m = true → Ram.wf bound (Ram.set m k x) = true
  | [], k, x, hk, _ => by simp [Ram.set, Ram.wf, hk]
  | (a, b) :: m, k, x, hk, h => by
    have h' := h
    simp only [Ram.wf, Bool.and_eq_true, decide_eq_true_eq] at h
    obtain ⟨⟨ha, hall⟩, hm⟩ := h
    unfold Ram.set
    split
    · rename_i hka
      simp only [Ram.wf, Bool.and_eq_true, decide_eq_true_eq]
      exact ⟨⟨hk, by simpa using hka⟩, ⟨ha, hall⟩, hm⟩
    split
    · rename_i _ hka
      subst hka
      simp only [Ram.wf, Bool.and_eq_true, decide_eq_true_eq]
      exact ⟨⟨hk, hall⟩, hm⟩
    · rename_i h1 h2
      simp only [Ram.wf, Bool.and_eq_true, decide_eq_true_eq]
      refine ⟨⟨ha, ?_⟩, ram_wf_set m k x hk hm⟩
      cases hh : (Ram.set m k x).head? with
      | none => rfl
      | some c =>
        rcases ram_head?_set m k x c hh with hc | hc
        · simp only [Option.all_some, decide_eq_true_eq, hc]; omega
        · simpa [hc] using hall

/-! ### The data RAM -/

/-- A byte after a byte write. -/
theorem readByte_writeByte (s : State) (a j : Nat) (b : Byte) :
    (s.writeByte a b).readByte j = if a = j then b else s.readByte j := by
  simp only [State.readByte, writeByte_data, writeByte_powerUps, ram_get?_set]
  split <;> rfl

/-- A byte after a write of several bytes. -/
theorem readByte_memWrite : ∀ (bs : List Byte) (s : State) (a j : Nat),
    (s.memWrite a bs).readByte j = if a ≤ j then bs.getD (j - a) (s.readByte j) else s.readByte j
  | [], s, a, j => by simp [State.memWrite]
  | b :: bs, s, a, j => by
    rw [State.memWrite, readByte_memWrite bs, readByte_writeByte]
    rcases Nat.lt_trichotomy a j with h | rfl | h
    · rw [if_pos (by omega), if_neg (by omega), if_pos (by omega)]
      obtain ⟨d, hd⟩ : ∃ d, j - a = d + 1 := ⟨j - a - 1, by omega⟩
      rw [hd, show j - (a + 1) = d by omega]
      rfl
    · rw [if_neg (by omega), if_pos rfl, if_pos (by omega)]
      simp
    · rw [if_neg (by omega), if_neg (by omega), if_neg (by omega)]

/-- A write of several bytes in range keeps the canonical form. -/
theorem memory_wf_memWrite : ∀ (bs : List Byte) (s : State) (a : Nat), a + bs.length ≤ 4096 →
    Memory.wf s.data = true → Memory.wf (s.memWrite a bs).data = true
  | [], _, _, _, h => h
  | b :: bs, s, a, hl, h => by
    rw [State.memWrite]
    simp only [List.length_cons] at hl
    exact memory_wf_memWrite bs _ _ (by omega) (ram_wf_set _ _ _ (by omega) h)

theorem memory_wf_reset : Memory.wf State.reset.data = true := rfl

theorem cmdRam_wf_reset : CmdRam.wf State.reset.cmd = true := rfl

/-- The bytes read one by one. -/
theorem memRead_length : ∀ (n : Nat) (s : State) (a : Nat), (s.memRead a n).length = n
  | 0, _, _ => rfl
  | n + 1, s, a => by simp [State.memRead, memRead_length n]

theorem memRead_getElem? : ∀ (n : Nat) (s : State) (a i : Nat), i < n →
    (s.memRead a n)[i]? = some (s.readByte (a + i))
  | 0, _, _, _, h => by omega
  | n + 1, s, a, 0, _ => by simp [State.memRead]
  | n + 1, s, a, i + 1, h => by
    rw [State.memRead, List.getElem?_cons_succ, memRead_getElem? n s (a + 1) i (by omega)]
    congr 2; omega

theorem beBytes_length : ∀ (n v : Nat), (beBytes v n).length = n
  | 0, _ => rfl
  | n + 1, v => by simp [beBytes, beBytes_length n]

theorem bytesBe_length (v : Word) : (bytesBe v).length = 32 := beBytes_length 32 _

/-- The value of the low `n` bytes of `v`, most significant first, is `v` modulo 256^n (spec/00_scope R10). -/
theorem beValue_beBytes : ∀ (n v acc : Nat), beValue acc (beBytes v n) = acc * 256 ^ n + v % 256 ^ n
  | 0, v, acc => by simp [beBytes, beValue, Nat.mod_one]
  | n + 1, v, acc => by
    have hb : (BitVec.ofNat 8 (v / 256 ^ n)).toNat = v / 256 ^ n % 256 := by simp
    rw [beBytes, beValue, beValue_beBytes n, hb, pow_succ, Nat.mod_mul]
    ring

/-- Reading back the bytes of a value gives the value. -/
theorem be256_bytesBe (v : Word) : be256 (bytesBe v) = v := by
  have h : (256 : Nat) ^ 32 = 2 ^ 256 := by norm_num
  rw [be256, bytesBe, beValue_beBytes, h, Nat.zero_mul, Nat.zero_add, Nat.mod_eq_of_lt v.isLt]
  simp

/-! ### The command RAM -/

/-- A command word after a write of a command word. -/
theorem cmdWord_setCmdWord (s : State) (i j : Nat) (w : CmdWord) :
    (s.setCmdWord i w).cmdWord j = if i = j then w else s.cmdWord j := by
  simp only [State.cmdWord, setCmdWord_cmd, setCmdWord_powerUps, ram_get?_set]
  split <;> rfl

end Sys2Proof.Laws
end

