-- ==== Sys2Proof/Laws/Ops.lean ====
section
/-! SUPPORT. Register reads and writes, and the one thing `State.finish` can do. -/

namespace Sys2Proof.Laws

open Sys2Proof.Machine

/-! ### Bits of the valid registers -/

theorem getLsbD_or_twoPow (b : BitVec 16) (i j : BitVec 4) :
    (b ||| BitVec.twoPow 16 i.toNat).getLsbD j.toNat = if i = j then true else b.getLsbD j.toNat := by
  have hi := i.isLt
  rw [BitVec.getLsbD_or, BitVec.getLsbD_twoPow]
  by_cases h : i = j
  · subst h; simp; omega
  · have : i.toNat ≠ j.toNat := fun hh => h (BitVec.eq_of_toNat_eq hh)
    simp [h, this]

/-! ### V registers -/

theorem vValid_writeV (s : State) (i j : VReg) (x : Word) :
    (s.writeV i x).vValid j = if i = j then true else s.vValid j := getLsbD_or_twoPow _ _ _

theorem vReg_writeV (s : State) (i j : VReg) (x : Word) :
    (s.writeV i x).vReg j = if i = j then x else s.vReg j := by
  simp only [State.vReg, writeV_v, Vector.getElem_set]
  by_cases h : i = j
  · subst h; simp
  · have : i.toNat ≠ j.toNat := fun hh => h (BitVec.eq_of_toNat_eq hh)
    simp [h, this]

theorem readV_eq_ok {s : State} {i : VReg} {x : Word} : s.readV i = .ok x ↔ s.vValid i = true ∧ s.vReg i = x := by
  unfold State.readV; split <;> simp_all

theorem readV_of_valid {s : State} {i : VReg} (h : s.vValid i = true) : s.readV i = .ok (s.vReg i) := by
  simp [State.readV, h]

theorem readV_of_invalid {s : State} {i : VReg} (h : s.vValid i = false) : s.readV i = .error .uninit := by
  simp [State.readV, h]

/-! ### Q registers -/

theorem qValid_writeQ (s : State) (i j : QReg) (pt : Point) :
    (s.writeQ i pt).qValid j = if i = j then true else s.qValid j := getLsbD_or_twoPow _ _ _

theorem qReg_writeQ (s : State) (i j : QReg) (pt : Point) :
    (s.writeQ i pt).qReg j = if i = j then pt else s.qReg j := by
  simp only [State.qReg, writeQ_q, Vector.getElem_set]
  by_cases h : i = j
  · subst h; simp
  · have : i.toNat ≠ j.toNat := fun hh => h (BitVec.eq_of_toNat_eq hh)
    simp [h, this]

theorem readQ_eq_ok {s : State} {i : QReg} {pt : Point} : s.readQ i = .ok pt ↔ s.qValid i = true ∧ s.qReg i = pt := by
  unfold State.readQ; split <;> simp_all

theorem readQ_of_valid {s : State} {i : QReg} (h : s.qValid i = true) : s.readQ i = .ok (s.qReg i) := by
  simp [State.readQ, h]

theorem readQ_of_invalid {s : State} {i : QReg} (h : s.qValid i = false) : s.readQ i = .error .uninit := by
  simp [State.readQ, h]

/-! ### M, the modulus and the constants -/

theorem readM_of_valid {s : State} (h : s.validM = true) : s.readM = .ok s.m := by simp [State.readM, h]

theorem readM_of_invalid {s : State} (h : s.validM = false) : s.readM = .error .uninit := by simp [State.readM, h]

@[simp] theorem modval_zero (s : State) : s.modval 0#2 = .ok (BitVec.ofNat 256 primeP) := rfl

@[simp] theorem modval_one (s : State) : s.modval 1#2 = .ok (BitVec.ofNat 256 orderN) := rfl

@[simp] theorem modval_two (s : State) : s.modval 2#2 = s.readM := rfl

theorem modcheck_eq_ok {ms : BitVec 2} {m : Word} :
    modcheck ms m = .ok () ↔ ¬ (ms = 2#2 ∧ (m.toNat % 2 = 0 ∨ m.toNat < 3)) := by
  unfold modcheck; split <;> simp_all

/-! ### Sequencing -/

@[simp] theorem except_ok_bind {α β : Type} (a : α) (f : α → Except Exc β) : ((Except.ok a : Except Exc α) >>= f) = f a :=
  rfl

@[simp] theorem except_error_bind {α β : Type} (e : Exc) (f : α → Except Exc β) :
    ((Except.error e : Except Exc α) >>= f) = .error e := rfl

theorem except_bind_eq_ok {α β : Type} {x : Except Exc α} {f : α → Except Exc β} {b : β} :
    (x >>= f) = .ok b ↔ ∃ a, x = .ok a ∧ f a = .ok b := by
  cases x <;> simp

@[simp] theorem finish_ok (s t : State) (i : Instr) : s.finish i (.ok t) = .next t := rfl

@[simp] theorem finish_pure (s t : State) (i : Instr) : s.finish i (pure t) = .next t := rfl

@[simp] theorem finish_error (s : State) (i : Instr) (e : Exc) : s.finish i (.error e) = .next (s.raise e (encode i)) :=
  rfl

/-- Everything `finish` can do: the state the instruction computed, or the entry of the exception it raised. -/
theorem finish_eq_next {s t : State} {i : Instr} {r : Except Exc State} (h : s.finish i r = .next t) :
    r = .ok t ∨ ∃ e, r = .error e ∧ t = s.raise e (encode i) := by
  cases r with
  | ok u => exact .inl (by simpa using h)
  | error e => exact .inr ⟨e, rfl, by simpa using h.symm⟩

/-- `settle` answers a next state exactly when what it settles does. -/
theorem settle_eq_next {r : Host.Outcome State Fault Refusal} {t : State} (h : settle r = .next t) :
    ∃ u, r = .next u ∧ t = u.noteReached := by
  cases r with
  | next u => exact ⟨u, rfl, by simpa [settle] using h.symm⟩
  | fault r => simp [settle] at h
  | refused r => simp [settle] at h

end Sys2Proof.Laws
end

