-- ==== Sys2Proof/Laws/Exec.lean ====
section
/-! SUPPORT. Everything one instruction can do, said once: raise an exception, or one of eight updates of the state. Frames
and invariants follow from it without unfolding `exec` again. -/

namespace Sys2Proof.Laws

open Sys2Proof.Machine

/-- The ways an instruction can change the state. -/
inductive Effect (i : Instr) (s : State) : State → Prop where
  /-- it raises an exception (spec/60_exceptions R920) -/
  | raised (e : Exc) : Effect i s (s.raise e (encode i))
  /-- it writes its V register -/
  | wroteV (rd : VReg) (x : Word) (h : i.vDest = some rd) : Effect i s (s.writeV rd x).advance
  /-- it writes its Q register -/
  | wroteQ (rd : QReg) (pt : Point) (h : i.qDest = some rd) : Effect i s (s.writeQ rd pt).advance
  /-- it writes M -/
  | wroteM (x : Word) (h : i.writesM = true) : Effect i s (s.writeM x).advance
  /-- it writes F -/
  | wroteF (b : Bool) (h : i.writesF = true) : Effect i s (s.setF b).advance
  /-- it stores to its slot -/
  | stored (slot : BitVec 7) (x : Word) (h : i.storeSlot = some slot) :
      Effect i s (s.memWrite (slotAddr slot) (bytesBe x)).advance
  /-- it only moves on -/
  | advanced : Effect i s s.advance
  /-- it jumps -/
  | jumped (target : BitVec 8) : Effect i s (s.jump target)
  /-- it ends the run -/
  | ended (h : i = .halt) : Effect i s s.halted

theorem effect_of_finish {i : Instr} {s t : State} {r : Except Exc State} (h : s.finish i r = .next t)
    (hok : ∀ u, r = .ok u → Effect i s u) : Effect i s t := by
  rcases finish_eq_next h with hr | ⟨e, -, rfl⟩
  · exact hok t hr
  · exact .raised e

/-- The inversion of `exec`: what a next state of an instruction can be. -/
theorem effect_of_exec {i : Instr} {s t : State} (h : exec i s = .next t) : Effect i s t := by
  cases i <;> simp only [exec] at h
  case nop => cases h; exact .advanced
  case halt => cases h; exact .ended rfl
  case j target => cases h; exact .jumped target
  case bf target =>
    cases h; split
    · exact .jumped target
    · exact .advanced
  case bnf target =>
    cases h; split
    · exact .advanced
    · exact .jumped target
  all_goals
    refine effect_of_finish h fun u hu => ?_
    clear h
    simp only [except_bind_eq_ok, Except.ok.injEq, pure, Except.pure] at hu
  case ldv rd slot => subst hu; exact .wroteV _ _ rfl
  case stv rs1 slot => obtain ⟨x, -, rfl⟩ := hu; exact .stored _ _ rfl
  case ldi rd imm => subst hu; exact .wroteV _ _ rfl
  case ldc rd cid => obtain ⟨x, -, rfl⟩ := hu; exact .wroteV _ _ rfl
  case mov rd rs1 => obtain ⟨x, -, rfl⟩ := hu; exact .wroteV _ _ rfl
  case setm rs1 => obtain ⟨x, -, rfl⟩ := hu; exact .wroteM _ rfl
  case madd ms rd rs1 rs2 => obtain ⟨m, -, a, -, b, -, rfl⟩ := hu; exact .wroteV _ _ rfl
  case msub ms rd rs1 rs2 => obtain ⟨m, -, a, -, b, -, rfl⟩ := hu; exact .wroteV _ _ rfl
  case mmul ms rd rs1 rs2 => obtain ⟨m, -, a, -, b, -, _, -, rfl⟩ := hu; exact .wroteV _ _ rfl
  case minv ms rd rs1 => obtain ⟨m, -, a, -, _, -, r, -, rfl⟩ := hu; exact .wroteV _ _ rfl
  case cmpge rs1 rs2 => obtain ⟨x, -, y, -, rfl⟩ := hu; exact .wroteF _ rfl
  case mkpt rd rs1 rs2 => obtain ⟨x, -, y, -, pt, -, rfl⟩ := hu; exact .wroteQ _ _ rfl
  case mkinf rd => subst hu; exact .wroteQ _ _ rfl
  case pmov rd rs1 => obtain ⟨pt, -, rfl⟩ := hu; exact .wroteQ _ _ rfl
  case ptx rd rs1 => obtain ⟨pt, -, x, -, rfl⟩ := hu; exact .wroteV _ _ rfl
  case pty rd rs1 => obtain ⟨pt, -, y, -, rfl⟩ := hu; exact .wroteV _ _ rfl
  case ptinf rs1 => obtain ⟨pt, -, rfl⟩ := hu; exact .wroteF _ rfl
  case padd rd rs1 rs2 => obtain ⟨p, -, q, -, _, -, _, -, rfl⟩ := hu; exact .wroteQ _ _ rfl
  case pdbl rd rs1 => obtain ⟨p, -, _, -, rfl⟩ := hu; exact .wroteQ _ _ rfl
  case pmul rd rs1 rs2 => obtain ⟨p, -, k, -, _, -, rfl⟩ := hu; exact .wroteQ _ _ rfl

/-- What is read from a register that holds a valid point is a valid point. -/
theorem valid_of_readQ {s : State} {r : QReg} {pt : Point} (hp : PointsValid s) (h : s.readQ r = .ok pt) :
    validPt pt = true := by
  obtain ⟨hv, rfl⟩ := readQ_eq_ok.1 h
  exact hp r hv

/-- A register file of valid points stays one when a valid point is written. -/
theorem pointsValid_writeQ {s : State} {rd : QReg} {pt : Point} (hp : PointsValid s) (h : validPt pt = true) :
    PointsValid (s.writeQ rd pt) := by
  intro r hr
  rw [qReg_writeQ]
  split
  · exact h
  · rename_i hne
    rw [qValid_writeQ, if_neg hne] at hr
    exact hp r hr

end Sys2Proof.Laws
end

