-- ==== Sys2Proof/Laws/Inverse.lean ====
section
/-! SUPPORT. What the modular inverse computes (spec/40_modular_arith R440): Euclid's algorithm keeps the Bezout relation
and ends at the greatest common divisor, so the answer is an inverse whenever one exists. -/

namespace Sys2Proof.Laws

open Sys2Proof.Machine

/-- The coefficient after one stage satisfies the relation of the new remainder. -/
theorem euclid_stage {m a r0 r1 t0 t1 : Nat} (hm : 0 < m) (h0 : t0 * a ≡ r0 [MOD m]) (h1 : t1 * a ≡ r1 [MOD m]) :
    (t0 + (m - r0 / r1 * t1 % m)) % m * a ≡ r0 % r1 [MOD m] := by
  have hlt : r0 / r1 * t1 % m ≤ m := (Nat.mod_lt _ hm).le
  have hq : r0 / r1 * t1 * a ≡ r0 / r1 * r1 [MOD m] := by
    rw [mul_assoc]
    exact h1.mul_left _
  have hz : (m - r0 / r1 * t1 % m) + r0 / r1 * t1 ≡ 0 [MOD m] := by
    have : (m - r0 / r1 * t1 % m) + r0 / r1 * t1 % m ≡ 0 [MOD m] := by
      rw [Nat.sub_add_cancel hlt]
      simp [Nat.ModEq]
    exact ((Nat.mod_modEq _ _).symm.add_left _).trans this
  have hs : (t0 + (m - r0 / r1 * t1 % m)) % m * a ≡ (t0 + (m - r0 / r1 * t1 % m)) * a [MOD m] :=
    (Nat.mod_modEq _ _).mul_right _
  refine Nat.ModEq.add_right_cancel' (r0 / r1 * r1) ?_
  have hr : r0 % r1 + r0 / r1 * r1 = r0 := by rw [Nat.mul_comm]; exact Nat.mod_add_div r0 r1
  rw [hr]
  calc (t0 + (m - r0 / r1 * t1 % m)) % m * a + r0 / r1 * r1
      ≡ (t0 + (m - r0 / r1 * t1 % m)) * a + r0 / r1 * t1 * a [MOD m] := hs.add hq.symm
    _ = (t0 + ((m - r0 / r1 * t1 % m) + r0 / r1 * t1)) * a := by ring
    _ ≡ (t0 + 0) * a [MOD m] := (hz.add_left _).mul_right _
    _ = t0 * a := by ring
    _ ≡ r0 [MOD m] := h0

/-- Bezout: the second component times `a` is the first, modulo `m`. -/
theorem euclid_bezout {m a : Nat} (hm : 0 < m) : ∀ fuel r0 r1 t0 t1, t0 * a ≡ r0 [MOD m] → t1 * a ≡ r1 [MOD m] →
    (euclid m fuel r0 r1 t0 t1).2 * a ≡ (euclid m fuel r0 r1 t0 t1).1 [MOD m]
  | 0, _, _, _, _, h0, _ => h0
  | fuel + 1, r0, r1, t0, t1, h0, h1 => by
    unfold euclid
    split
    · exact h0
    · exact euclid_bezout hm fuel _ _ _ _ h1 (euclid_stage hm h0 h1)

/-- The coefficients stay below the modulus. -/
theorem euclid_lt {m : Nat} (hm : 0 < m) : ∀ fuel r0 r1 t0 t1, t0 < m → t1 < m →
    (euclid m fuel r0 r1 t0 t1).2 < m
  | 0, _, _, _, _, h0, _ => h0
  | fuel + 1, r0, r1, t0, t1, h0, h1 => by
    unfold euclid
    split
    · exact h0
    · exact euclid_lt hm fuel _ _ _ _ h1 (Nat.mod_lt _ hm)

/-- With two stages for every bit of the smaller operand the first component is the greatest common divisor. -/
theorem euclid_gcd (m : Nat) : ∀ j fuel r0 r1 t0 t1, r1 < 2 ^ j → 2 * j ≤ fuel →
    (euclid m fuel r0 r1 t0 t1).1 = Nat.gcd r0 r1
  | 0, fuel, r0, r1, t0, t1, h, _ => by
    obtain rfl : r1 = 0 := by simpa using h
    cases fuel <;> simp [euclid]
  | j + 1, fuel, r0, r1, t0, t1, h, hf => by
    obtain ⟨k, rfl⟩ : ∃ k, fuel = k + 2 := ⟨fuel - 2, by omega⟩
    by_cases h1 : r1 = 0
    · simp [euclid, h1]
    have hx : r0 % r1 < r1 := Nat.mod_lt _ (by omega)
    by_cases h2 : r0 % r1 = 0
    · simp only [euclid, h1, h2, if_false, if_true]
      exact (Nat.gcd_eq_right (Nat.dvd_of_mod_eq_zero h2)).symm
    · have hhalf : r1 % (r0 % r1) < 2 ^ j := by
        have hy : r1 % (r0 % r1) < r0 % r1 := Nat.mod_lt _ (by omega)
        have hle : r1 % (r0 % r1) + r0 % r1 ≤ r1 := by
          have hd := Nat.mod_add_div r1 (r0 % r1)
          have : 1 ≤ r1 / (r0 % r1) := Nat.div_pos hx.le (by omega)
          nlinarith
        rw [pow_succ] at h
        omega
      have ih := euclid_gcd m j k (r0 % r1) (r1 % (r0 % r1))
      simp only [euclid, h1, h2, if_false]
      rw [ih _ _ hhalf (by omega)]
      rw [Nat.gcd_comm r0 r1, Nat.gcd_rec r1 r0, Nat.gcd_comm, Nat.gcd_comm (r0 % r1) r1,
        Nat.gcd_comm r1, Nat.gcd_rec (r0 % r1) r1]

/-- `modInverse` answers exactly when the operand has an inverse. -/
theorem modInverse_eq_none_iff {a m : Nat} : modInverse a m = none ↔ ¬ Nat.Coprime a m := by
  unfold modInverse Nat.Coprime
  have hg : Nat.gcd (a % m) m = Nat.gcd a m := by
    rw [Nat.gcd_comm a m, Nat.gcd_rec m a]
  rw [← hg]
  split <;> simp_all

/-- What `modInverse` answers is an inverse below the modulus (R440). -/
theorem modInverse_spec {a m c : Nat} (hm : 1 < m) (hW : m < 2 ^ 256) (h : modInverse a m = some c) :
    c < m ∧ a * c % m = 1 := by
  unfold modInverse at h
  split at h
  case isFalse => simp at h
  case isTrue hg =>
    obtain rfl := Option.some.inj h
    have hlt : a % m < 2 ^ 256 := (Nat.mod_lt _ (by omega)).trans hW
    have hz : (0 : Nat) * a ≡ m [MOD m] := by simp [Nat.ModEq]
    have ho : 1 * a ≡ a % m [MOD m] := by simp [Nat.ModEq]
    have hb := euclid_bezout (a := a) (by omega : 0 < m) euclidFuel m (a % m) 0 1 hz ho
    rw [euclid_gcd m 256 euclidFuel m (a % m) 0 1 hlt (by decide), Nat.gcd_comm, hg] at hb
    refine ⟨euclid_lt (by omega) _ _ _ _ _ (by omega) hm, ?_⟩
    rw [Nat.mul_comm]
    exact Eq.trans hb (Nat.mod_eq_of_lt hm)

end Sys2Proof.Laws
end

