-- ==== Sys2Proof/Laws/Primes.lean ====
section
/-! SUPPORT. P and N are prime (spec/10_state R140 takes it from the source: "valid because P and N are prime"): a chain
of Lucas certificates from 2 upward, checked by the kernel in one evaluation. -/

namespace Sys2Proof.Laws

/-- `b ^ e mod m` by square and multiply; `fuel` bounds the bits of `e`. -/
def powMod (b m : Nat) : Nat → Nat → Nat
  | 0, _ => 1 % m
  | fuel + 1, e =>
    if e = 0 then 1 % m
    else if e % 2 = 1 then powMod b m fuel (e / 2) * powMod b m fuel (e / 2) % m * b % m
    else powMod b m fuel (e / 2) * powMod b m fuel (e / 2) % m

theorem powMod_eq (b m : Nat) : ∀ fuel e, e < 2 ^ fuel → powMod b m fuel e = b ^ e % m
  | 0, e, h => by
    obtain rfl : e = 0 := by simpa using h
    simp [powMod]
  | fuel + 1, e, h => by
    have hlt : e / 2 < 2 ^ fuel := by rw [pow_succ] at h; omega
    have ih := powMod_eq b m fuel (e / 2) hlt
    have he : e = e / 2 + e / 2 + e % 2 := by omega
    rw [powMod, ih]
    split
    · rename_i h0
      rw [h0, pow_zero]
    · split
      · rename_i h1
        conv_rhs => rw [he, h1, pow_succ, pow_add]
        simp [Nat.mul_mod]
      · rename_i h1
        have h0 : e % 2 = 0 := by omega
        conv_rhs => rw [he, h0, Nat.add_zero, pow_add]
        simp [Nat.mul_mod]

/-- A Lucas certificate for `p`: a witness `a` and the prime factors of `p - 1` with repeats. -/
def lucasCheck (p a : Nat) (fs : List Nat) : Bool :=
  decide (1 < p) && decide (p < 2 ^ 256) && decide (fs.prod = p - 1) && decide (powMod a p 256 (p - 1) = 1)
    && fs.all fun q => decide (powMod a p 256 ((p - 1) / q) ≠ 1)

theorem prime_of_lucasCheck {p a : Nat} {fs : List Nat} (h : lucasCheck p a fs = true)
    (hfs : ∀ q ∈ fs, q.Prime) : p.Prime := by
  simp only [lucasCheck, Bool.and_eq_true, decide_eq_true_eq, List.all_eq_true] at h
  obtain ⟨⟨⟨⟨h1, h256⟩, hprod⟩, hone⟩, hne⟩ := h
  have hone' : (a ^ (p - 1)) % p = 1 % p := by
    rw [← powMod_eq a p 256 _ (by omega), hone, Nat.mod_eq_of_lt h1]
  refine lucas_primality p (a : ZMod p) ?_ fun q hq hdvd hc => ?_
  · exact_mod_cast (ZMod.natCast_eq_natCast_iff' _ _ _).2 hone'
  · obtain ⟨r, hr, hqr⟩ := (Prime.dvd_prod_iff hq.prime).1 (hprod ▸ hdvd)
    obtain rfl : q = r := (Nat.prime_dvd_prime_iff_eq hq (hfs r hr)).1 hqr
    have hc' : (a ^ ((p - 1) / q)) % p = 1 % p :=
      (ZMod.natCast_eq_natCast_iff' _ _ _).1 (by exact_mod_cast hc)
    have hlt : (p - 1) / q < 2 ^ 256 := (Nat.div_le_self _ _).trans_lt (by omega)
    exact hne q hr (by rw [powMod_eq a p 256 _ hlt, hc', Nat.mod_eq_of_lt h1])

/-- Certificates (prime, witness, factors of the prime less one), every factor certified before it is used. -/
def certsOk : List Nat → List (Nat × Nat × List Nat) → Bool
  | _, [] => true
  | known, (p, a, fs) :: cs => lucasCheck p a fs && fs.all (fun q => known.contains q) && certsOk (p :: known) cs

theorem prime_of_certsOk : ∀ (cs : List (Nat × Nat × List Nat)) (known : List Nat), (∀ q ∈ known, q.Prime) →
    certsOk known cs = true → ∀ c ∈ cs, c.1.Prime
  | [], _, _, _, _, hc => by simp at hc
  | (p, a, fs) :: cs, known, hk, h, c, hc => by
    simp only [certsOk, Bool.and_eq_true, List.all_eq_true, List.contains_iff_mem] at h
    have hp : p.Prime := prime_of_lucasCheck h.1.1 fun q hq => hk q (h.1.2 q hq)
    rcases List.mem_cons.1 hc with rfl | hc
    · exact hp
    · exact prime_of_certsOk cs (p :: known) (by simpa using ⟨hp, hk⟩) h.2 c hc

def certs1 : List (Nat × Nat × List Nat) :=
  [(2, 1, []),
   (3, 2, [2]),
   (7, 3, [2, 3]),
   (5, 2, [2, 2]),
   (13441, 11, [2, 2, 2, 2, 2, 2, 2, 3, 5, 7]),
   (29, 2, [2, 2, 7]),
   (31, 3, [2, 3, 5]),
   (11, 2, [2, 5]),
   (13, 2, [2, 2, 3]),
   (7723, 3, [2, 3, 3, 3, 11, 13]),
   (17, 3, [2, 2, 2, 2]),
   (443, 2, [2, 13, 17]),
   (887, 5, [2, 443]),
   (5323, 5, [2, 3, 887]),
   (131, 2, [2, 5, 13]),
   (2621, 2, [2, 2, 5, 131])]

def certs2 : List (Nat × Nat × List Nat) :=
  [(24809, 6, [2, 2, 2, 7, 443]),
   (97, 5, [2, 2, 2, 2, 2, 3]),
   (971, 6, [2, 5, 97]),
   (1373, 2, [2, 2, 7, 7, 7]),
   (13331831, 13, [2, 5, 971, 1373]),
   (173378833005251801, 6, [2, 2, 2, 5, 5, 2621, 24809, 13331831]),
   (22149492674086928081353, 5, [2, 2, 2, 3, 5323, 173378833005251801]),
   (132896956044521568488119, 6, [2, 3, 22149492674086928081353]),
   (271, 6, [2, 3, 3, 3, 5]),
   (1627, 3, [2, 3, 271]),
   (41, 6, [2, 2, 2, 5]),
   (83, 2, [2, 41]),
   (2657, 3, [2, 2, 2, 2, 2, 83]),
   (67, 2, [2, 3, 11]),
   (4423, 3, [2, 3, 11, 67]),
   (103, 5, [2, 3, 17])]

def certs3 : List (Nat × Nat × List Nat) :=
  [(41201, 3, [2, 2, 2, 2, 5, 5, 103]),
   (101, 2, [2, 2, 5, 5]),
   (239, 7, [2, 7, 17]),
   (96557, 2, [2, 2, 101, 239]),
   (19, 2, [2, 3, 3]),
   (419, 2, [2, 11, 19]),
   (20113, 10, [2, 2, 2, 2, 3, 419]),
   (1206781, 10, [2, 2, 3, 5, 20113]),
   (7240687, 3, [2, 3, 1206781]),
   (53, 2, [2, 2, 13]),
   (107590001, 3, [2, 2, 2, 2, 5, 5, 5, 5, 7, 29, 53]),
   (255515944373312847190720520512484175977, 3, [2, 2, 2, 7, 7, 11, 1627, 2657, 4423, 41201, 96557, 7240687, 107590001]),
   (205115282021455665897114700593932402728804164701536103180137503955397371, 10, [2, 3, 5, 29, 29, 31, 7723, 132896956044521568488119, 255515944373312847190720520512484175977]),
   (115792089237316195423570985008687907853269984665640564039457584007908834671663, 3, [2, 3, 7, 13441, 205115282021455665897114700593932402728804164701536103180137503955397371]),
   (37, 2, [2, 2, 3, 3]),
   (149, 2, [2, 2, 37])]

def certs4 : List (Nat × Nat × List Nat) :=
  [(631, 3, [2, 3, 3, 5, 7]),
   (23, 5, [2, 11]),
   (16699, 3, [2, 3, 11, 11, 23]),
   (2861, 2, [2, 2, 5, 11, 13]),
   (85831, 3, [2, 3, 5, 2861]),
   (2011, 3, [2, 3, 5, 67]),
   (4681609, 23, [2, 2, 2, 3, 97, 2011]),
   (107361793816595537, 3, [2, 2, 2, 2, 16699, 85831, 4681609]),
   (59, 2, [2, 29]),
   (4051, 10, [2, 3, 3, 3, 3, 5, 5]),
   (113, 3, [2, 2, 2, 2, 7]),
   (120233, 3, [2, 2, 2, 7, 19, 113]),
   (199, 3, [2, 3, 3, 11]),
   (797, 2, [2, 2, 199]),
   (9349, 2, [2, 2, 3, 19, 41]),
   (44706919, 6, [2, 3, 797, 9349])]

def certs5 : List (Nat × Nat × List Nat) :=
  [(174723607534414371449, 3, [2, 2, 2, 17, 59, 4051, 120233, 44706919]),
   (109, 6, [2, 2, 3, 3, 3]),
   (73, 5, [2, 2, 2, 3, 3]),
   (293, 2, [2, 2, 73]),
   (2731, 3, [2, 3, 5, 7, 13]),
   (305873, 3, [2, 2, 2, 2, 7, 2731]),
   (1409, 3, [2, 2, 2, 2, 2, 2, 2, 11]),
   (28181, 2, [2, 2, 5, 1409]),
   (545358713, 5, [2, 2, 2, 41, 59, 28181]),
   (461, 2, [2, 2, 5, 23]),
   (1871, 14, [2, 5, 11, 17]),
   (1627771, 3, [2, 3, 5, 29, 1871]),
   (297159362677, 2, [2, 2, 3, 3, 11, 461, 1627771]),
   (29047611873442575647497758179, 2, [2, 293, 305873, 545358713, 297159362677]),
   (341948486974166000522343609283189, 2, [2, 2, 3, 3, 3, 109, 29047611873442575647497758179]),
   (115792089237316195423570985008687907852837564279074904382605163141518161494337, 7, [2, 2, 2, 2, 2, 2, 3, 149, 631, 107361793816595537, 174723607534414371449, 341948486974166000522343609283189])]

def certs : List (Nat × Nat × List Nat) := certs1 ++ certs2 ++ certs3 ++ certs4 ++ certs5

theorem certs_ok : certsOk [] certs = true := by decide +kernel

theorem prime_of_mem_certs {p a : Nat} {fs : List Nat} (h : (p, a, fs) ∈ certs) : p.Prime :=
  prime_of_certsOk certs [] (by simp) certs_ok _ h

/-- P is prime. -/
theorem primeP_prime : Machine.primeP.Prime :=
  prime_of_mem_certs (a := 3) (fs := [2, 3, 7, 13441, 205115282021455665897114700593932402728804164701536103180137503955397371]) (by simp [certs, certs1, certs2, certs3, certs4, certs5, Machine.primeP])

/-- N is prime. -/
theorem orderN_prime : Machine.orderN.Prime :=
  prime_of_mem_certs (a := 7) (fs := [2, 2, 2, 2, 2, 2, 3, 149, 631, 107361793816595537, 174723607534414371449, 341948486974166000522343609283189]) (by simp [certs, certs1, certs2, certs3, certs4, certs5, Machine.orderN])

end Sys2Proof.Laws
end

