-- ==== Sys2Proof/Laws/GroupLaw.lean ====
section
/-! SUPPORT. The field helpers in ZMod P, and the group law on valid points (spec/41_point_ops R503 items 1 and 3): every
result is a valid point and every inverse exists. -/

namespace Sys2Proof.Laws

open Sys2Proof.Machine

/-- The field modulo P. -/
abbrev F := ZMod primeP

theorem primeP_fact : Fact primeP.Prime := ⟨primeP_prime⟩

theorem cast_mod (a : Nat) : ((a % primeP : Nat) : F) = a := by simp

/-! The field helpers of spec/00_scope R13 are the operations of the field. -/

theorem cast_fadd (a b : Nat) : ((fadd a b : Nat) : F) = a + b := by simp [fadd]

theorem cast_fmul (a b : Nat) : ((fmul a b : Nat) : F) = a * b := by simp [fmul]

theorem cast_fsub (a b : Nat) : ((fsub a b : Nat) : F) = a - b := by
  unfold fsub
  rw [cast_mod, Nat.cast_add, Nat.cast_sub (Nat.mod_lt _ (by decide)).le, cast_mod]
  simp; ring

theorem fsub_lt (a b : Nat) : fsub a b < primeP := Nat.mod_lt _ (by decide)

/-- Where the operand is nonzero modulo P, `finv` is the field's inverse. -/
theorem cast_finv {a : Nat} (h : (a : F) ≠ 0) : ((finv a : Nat) : F) = (a : F)⁻¹ := by
  have := primeP_fact
  unfold finv
  cases hc : modInverse a primeP with
  | none =>
    exfalso
    rw [modInverse_eq_none_iff] at hc
    apply hc
    rw [Nat.coprime_comm]
    refine (Nat.Prime.coprime_iff_not_dvd primeP_prime).2 fun hd => h ?_
    exact (ZMod.natCast_eq_zero_iff _ _).2 hd
  | some c =>
    have := (modInverse_spec (by decide) (by decide) hc).2
    have h2 : ((a * c % primeP : Nat) : F) = (1 : Nat) := by rw [this]
    rw [cast_mod] at h2
    push_cast at h2
    simp only [Option.getD_some]
    exact eq_inv_of_mul_eq_one_right h2

/-- The curve equation in the field (spec/00_scope R12). -/
theorem onCurve_iff (x y : Nat) : onCurve x y = true ↔ x < primeP ∧ y < primeP ∧ (y : F) ^ 2 = (x : F) ^ 3 + 7 := by
  unfold onCurve
  simp only [Bool.and_eq_true, decide_eq_true_eq, and_assoc]
  refine and_congr Iff.rfl (and_congr Iff.rfl ?_)
  rw [← ZMod.natCast_eq_natCast_iff']
  push_cast [curveB]
  ring_nf

theorem validPt_affine {x y : Nat} (hx : x < primeP) (hy : y < primeP) (h : (y : F) ^ 2 = (x : F) ^ 3 + 7) :
    validPt (affine x y) = true := by
  have hP : primeP < 2^256 := by decide
  simp only [affine, validPt, BitVec.toNat_ofNat, Nat.mod_eq_of_lt (hx.trans hP), Nat.mod_eq_of_lt (hy.trans hP)]
  exact (onCurve_iff _ _).2 ⟨hx, hy, h⟩

/-- The double of a valid point is a valid point (R503 item 1). -/
theorem pointDouble_valid {p : Point} (h : validPt p = true) : validPt (pointDouble p) = true := by
  have := primeP_fact
  cases p with
  | inf => rfl
  | aff xw yw =>
    simp only [validPt] at h
    obtain ⟨hx, hy, hc⟩ := (onCurve_iff _ _).1 h
    simp only [pointDouble]
    split
    · rfl
    · rename_i hy0
      have hyF : (yw.toNat : F) ≠ 0 := by
        rw [Ne, ZMod.natCast_eq_zero_iff]
        exact fun hd => absurd (Nat.le_of_dvd (by omega) hd) (by omega)
      have h2 : (2 : F) ≠ 0 := by
        have : ((2:Nat) : F) ≠ 0 := by
          rw [Ne, ZMod.natCast_eq_zero_iff]; decide
        simpa using this
      refine validPt_affine (fsub_lt _ _) (fsub_lt _ _) ?_
      have hd : ((fmul 2 yw.toNat : Nat) : F) ≠ 0 := by rw [cast_fmul]; push_cast; exact mul_ne_zero h2 hyF
      simp only [cast_fsub, cast_fmul, cast_fadd, fdiv, cast_finv hd, curveA]
      push_cast
      set x : F := (xw.toNat : F)
      set y : F := (yw.toNat : F)
      field_simp
      have hc7 : (7 : F) = y^2 - x^3 := by rw [hc]; ring
      rw [hc7]
      ring

/-- The third point of a chord through two points of the curve, reflected, is on the curve. -/
theorem chord_on_curve {K : Type} [Field K] {x1 y1 x2 y2 lam : K} (hd : x2 - x1 ≠ 0) (hlam : lam * (x2 - x1) = y2 - y1)
    (h1 : y1 ^ 2 = x1 ^ 3 + 7) (h2 : y2 ^ 2 = x2 ^ 3 + 7) :
    (lam * (x1 - (lam * lam - x1 - x2)) - y1) ^ 2 = (lam * lam - x1 - x2) ^ 3 + 7 := by
  have h2' : (lam * (x2 - x1) + y1) ^ 2 = x2 ^ 3 + 7 := by rw [hlam, ← h2]; ring
  refine sub_eq_zero.1 ((mul_eq_zero.1 ?_).resolve_left hd)
  linear_combination (x2 - (lam * lam - x1 - x2)) * h1 + ((lam * lam - x1 - x2) - x1) * h2'

/-- The sum of valid points is a valid point (R503 item 1). -/
theorem pointAdd_valid {p q : Point} (h : validPt p = true) (h' : validPt q = true) :
    validPt (pointAdd p q) = true := by
  have := primeP_fact
  cases p with
  | inf => simpa [pointAdd] using h'
  | aff x1w y1w =>
    cases q with
    | inf => simpa [pointAdd] using h
    | aff x2w y2w =>
      simp only [pointAdd]
      split
      · rfl
      split
      · exact pointDouble_valid h
      rename_i h1 h2
      simp only [validPt] at h h'
      obtain ⟨hx1, hy1, hc1⟩ := (onCurve_iff _ _).1 h
      obtain ⟨hx2, hy2, hc2⟩ := (onCurve_iff _ _).1 h'
      have hne : x2w.toNat ≠ x1w.toNat := by
        intro hh; by_cases hyy : y1w.toNat = y2w.toNat
        · exact h2 ⟨hh.symm, hyy⟩
        · exact h1 ⟨hh.symm, hyy⟩
      have hxF : (x2w.toNat : F) - x1w.toNat ≠ 0 := by
        rw [sub_ne_zero, Ne, ZMod.natCast_eq_natCast_iff', Nat.mod_eq_of_lt hx1, Nat.mod_eq_of_lt hx2]
        exact hne
      refine validPt_affine (fsub_lt _ _) (fsub_lt _ _) ?_
      have hd : ((fsub x2w.toNat x1w.toNat : Nat) : F) ≠ 0 := by rw [cast_fsub]; exact hxF
      simp only [cast_fsub, cast_fmul, fdiv, cast_finv hd]
      set x1 : F := (x1w.toNat : F)
      set y1 : F := (y1w.toNat : F)
      set x2 : F := (x2w.toNat : F)
      set y2 : F := (y2w.toNat : F)
      have hlam : (y2 - y1) * (x2 - x1)⁻¹ * (x2 - x1) = y2 - y1 := inv_mul_cancel_right₀ hxF _
      generalize (y2 - y1) * (x2 - x1)⁻¹ = lam at hlam
      exact chord_on_curve hxF hlam hc1 hc2

/-- Every value of the double-and-add loop is a valid point. -/
theorem ladder_valid {k : Nat} {p : Point} (hp : validPt p = true) : ∀ n acc, validPt acc = true →
    validPt (ladder k p n acc) = true
  | 0, _, h => h
  | n + 1, acc, h => by
    rw [ladder]
    refine ladder_valid hp n _ ?_
    unfold ladderStep
    dsimp only
    split
    · exact pointAdd_valid (pointDouble_valid h) hp
    · exact pointDouble_valid h

/-- A multiple of a valid point is a valid point. -/
theorem scalarMul_valid {k : Nat} {p : Point} (hp : validPt p = true) : validPt (scalarMul k p) = true :=
  ladder_valid hp _ _ rfl

end Sys2Proof.Laws
end

