-- ==== Sys2Proof/Laws/PerInstr.lean ====
section
/-! SUPPORT. A fact about every instruction as syntax: its word matches its own row of the decode table
(spec/30_encoding R321), whatever its fields. -/

namespace Sys2Proof.Laws

/-- Two words are equal if their 32 bits are. -/
theorem cmdWord_ext {x y : CmdWord} (h : ∀ i : Fin 32, x.getLsbD i = y.getLsbD i) : x = y :=
  BitVec.eq_of_getLsbD_eq fun i hi => h ⟨i, hi⟩

/-- A field placed at bit `k` has no bit in a mask that is clear there. -/
theorem placed_and_eq_zero {n : Nat} (x : BitVec n) (k : Nat) (mask : CmdWord)
    (h : ∀ j : Fin 32, mask.getLsbD j = true → (j : Nat) < k ∨ k + n ≤ j) : (x.setWidth 32 <<< k) &&& mask = 0#32 := by
  refine cmdWord_ext fun i => ?_
  have hi := i.isLt
  rw [BitVec.getLsbD_and, BitVec.getLsbD_shiftLeft, BitVec.getLsbD_setWidth, BitVec.getLsbD_zero]
  cases hm : mask.getLsbD i
  · simp
  · rcases h i hm with hlt | hge
    · simp [hlt]
    · have : x.getLsbD (↑i - k) = false := BitVec.getLsbD_of_ge _ _ (by omega)
      simp [this]

theorem placeMs_and {x : BitVec 2} {mask : CmdWord}
    (h : ∀ j : Fin 32, mask.getLsbD j = true → (j : Nat) < 24 ∨ 24 + 2 ≤ (j : Nat)) : placeMs x &&& mask = 0#32 :=
  placed_and_eq_zero x 24 mask h

theorem placeRd_and {x : BitVec 4} {mask : CmdWord}
    (h : ∀ j : Fin 32, mask.getLsbD j = true → (j : Nat) < 20 ∨ 20 + 4 ≤ (j : Nat)) : placeRd x &&& mask = 0#32 :=
  placed_and_eq_zero x 20 mask h

theorem placeRs1_and {x : BitVec 4} {mask : CmdWord}
    (h : ∀ j : Fin 32, mask.getLsbD j = true → (j : Nat) < 16 ∨ 16 + 4 ≤ (j : Nat)) : placeRs1 x &&& mask = 0#32 :=
  placed_and_eq_zero x 16 mask h

theorem placeRs2_and {x : BitVec 4} {mask : CmdWord}
    (h : ∀ j : Fin 32, mask.getLsbD j = true → (j : Nat) < 12 ∨ 12 + 4 ≤ (j : Nat)) : placeRs2 x &&& mask = 0#32 :=
  placed_and_eq_zero x 12 mask h

theorem placeLow_and {n : Nat} {x : BitVec n} {mask : CmdWord}
    (h : ∀ j : Fin 32, mask.getLsbD j = true → (j : Nat) < 0 ∨ 0 + n ≤ (j : Nat)) : placeLow x &&& mask = 0#32 := by
  have := placed_and_eq_zero x 0 mask h
  rwa [BitVec.shiftLeft_zero] at this

theorem or_and_distrib_word (x y z : CmdWord) : (x ||| y) &&& z = (x &&& z) ||| (y &&& z) := by
  refine cmdWord_ext fun i => ?_
  simp [Bool.and_or_distrib_right]

/-- The word of an instruction matches the mask and match value of its row. -/
def EncodeMatch.Statement (i : Instr) : Prop := encode i &&& i.mask = i.matchValue

theorem EncodeMatch.nop : EncodeMatch.Statement .nop := by
  rfl

theorem EncodeMatch.halt : EncodeMatch.Statement .halt := by
  rfl

theorem EncodeMatch.j (target : BitVec 8) : EncodeMatch.Statement (.j target) := by
  simp only [EncodeMatch.Statement, encode, Instr.mask, Instr.matchValue, or_and_distrib_word]
  rw [placeLow_and (by decide)]
  rfl

theorem EncodeMatch.bf (target : BitVec 8) : EncodeMatch.Statement (.bf target) := by
  simp only [EncodeMatch.Statement, encode, Instr.mask, Instr.matchValue, or_and_distrib_word]
  rw [placeLow_and (by decide)]
  rfl

theorem EncodeMatch.bnf (target : BitVec 8) : EncodeMatch.Statement (.bnf target) := by
  simp only [EncodeMatch.Statement, encode, Instr.mask, Instr.matchValue, or_and_distrib_word]
  rw [placeLow_and (by decide)]
  rfl

theorem EncodeMatch.ldv (rd : VReg) (slot : BitVec 7) : EncodeMatch.Statement (.ldv rd slot) := by
  simp only [EncodeMatch.Statement, encode, Instr.mask, Instr.matchValue, or_and_distrib_word]
  rw [placeRd_and (by decide), placeLow_and (by decide)]
  rfl

theorem EncodeMatch.stv (rs1 : VReg) (slot : BitVec 7) : EncodeMatch.Statement (.stv rs1 slot) := by
  simp only [EncodeMatch.Statement, encode, Instr.mask, Instr.matchValue, or_and_distrib_word]
  rw [placeRs1_and (by decide), placeLow_and (by decide)]
  rfl

theorem EncodeMatch.ldi (rd : VReg) (imm : BitVec 12) : EncodeMatch.Statement (.ldi rd imm) := by
  simp only [EncodeMatch.Statement, encode, Instr.mask, Instr.matchValue, or_and_distrib_word]
  rw [placeRd_and (by decide), placeLow_and (by decide)]
  rfl

theorem EncodeMatch.ldc (rd : VReg) (cid : BitVec 4) : EncodeMatch.Statement (.ldc rd cid) := by
  simp only [EncodeMatch.Statement, encode, Instr.mask, Instr.matchValue, or_and_distrib_word]
  rw [placeRd_and (by decide), placeLow_and (by decide)]
  rfl

theorem EncodeMatch.mov (rd rs1 : VReg) : EncodeMatch.Statement (.mov rd rs1) := by
  simp only [EncodeMatch.Statement, encode, Instr.mask, Instr.matchValue, or_and_distrib_word]
  rw [placeRd_and (by decide), placeRs1_and (by decide)]
  rfl

theorem EncodeMatch.setm (rs1 : VReg) : EncodeMatch.Statement (.setm rs1) := by
  simp only [EncodeMatch.Statement, encode, Instr.mask, Instr.matchValue, or_and_distrib_word]
  rw [placeRs1_and (by decide)]
  rfl

theorem EncodeMatch.madd (ms : BitVec 2) (rd rs1 rs2 : VReg) : EncodeMatch.Statement (.madd ms rd rs1 rs2) := by
  simp only [EncodeMatch.Statement, encode, Instr.mask, Instr.matchValue, or_and_distrib_word]
  rw [placeMs_and (by decide), placeRd_and (by decide), placeRs1_and (by decide), placeRs2_and (by decide)]
  rfl

theorem EncodeMatch.msub (ms : BitVec 2) (rd rs1 rs2 : VReg) : EncodeMatch.Statement (.msub ms rd rs1 rs2) := by
  simp only [EncodeMatch.Statement, encode, Instr.mask, Instr.matchValue, or_and_distrib_word]
  rw [placeMs_and (by decide), placeRd_and (by decide), placeRs1_and (by decide), placeRs2_and (by decide)]
  rfl

theorem EncodeMatch.mmul (ms : BitVec 2) (rd rs1 rs2 : VReg) : EncodeMatch.Statement (.mmul ms rd rs1 rs2) := by
  simp only [EncodeMatch.Statement, encode, Instr.mask, Instr.matchValue, or_and_distrib_word]
  rw [placeMs_and (by decide), placeRd_and (by decide), placeRs1_and (by decide), placeRs2_and (by decide)]
  rfl

theorem EncodeMatch.minv (ms : BitVec 2) (rd rs1 : VReg) : EncodeMatch.Statement (.minv ms rd rs1) := by
  simp only [EncodeMatch.Statement, encode, Instr.mask, Instr.matchValue, or_and_distrib_word]
  rw [placeMs_and (by decide), placeRd_and (by decide), placeRs1_and (by decide)]
  rfl

theorem EncodeMatch.cmpge (rs1 rs2 : VReg) : EncodeMatch.Statement (.cmpge rs1 rs2) := by
  simp only [EncodeMatch.Statement, encode, Instr.mask, Instr.matchValue, or_and_distrib_word]
  rw [placeRs1_and (by decide), placeRs2_and (by decide)]
  rfl

theorem EncodeMatch.mkpt (rd : QReg) (rs1 rs2 : VReg) : EncodeMatch.Statement (.mkpt rd rs1 rs2) := by
  simp only [EncodeMatch.Statement, encode, Instr.mask, Instr.matchValue, or_and_distrib_word]
  rw [placeRd_and (by decide), placeRs1_and (by decide), placeRs2_and (by decide)]
  rfl

theorem EncodeMatch.mkinf (rd : QReg) : EncodeMatch.Statement (.mkinf rd) := by
  simp only [EncodeMatch.Statement, encode, Instr.mask, Instr.matchValue, or_and_distrib_word]
  rw [placeRd_and (by decide)]
  rfl

theorem EncodeMatch.pmov (rd rs1 : QReg) : EncodeMatch.Statement (.pmov rd rs1) := by
  simp only [EncodeMatch.Statement, encode, Instr.mask, Instr.matchValue, or_and_distrib_word]
  rw [placeRd_and (by decide), placeRs1_and (by decide)]
  rfl

theorem EncodeMatch.ptx (rd : VReg) (rs1 : QReg) : EncodeMatch.Statement (.ptx rd rs1) := by
  simp only [EncodeMatch.Statement, encode, Instr.mask, Instr.matchValue, or_and_distrib_word]
  rw [placeRd_and (by decide), placeRs1_and (by decide)]
  rfl

theorem EncodeMatch.pty (rd : VReg) (rs1 : QReg) : EncodeMatch.Statement (.pty rd rs1) := by
  simp only [EncodeMatch.Statement, encode, Instr.mask, Instr.matchValue, or_and_distrib_word]
  rw [placeRd_and (by decide), placeRs1_and (by decide)]
  rfl

theorem EncodeMatch.ptinf (rs1 : QReg) : EncodeMatch.Statement (.ptinf rs1) := by
  simp only [EncodeMatch.Statement, encode, Instr.mask, Instr.matchValue, or_and_distrib_word]
  rw [placeRs1_and (by decide)]
  rfl

theorem EncodeMatch.padd (rd rs1 rs2 : QReg) : EncodeMatch.Statement (.padd rd rs1 rs2) := by
  simp only [EncodeMatch.Statement, encode, Instr.mask, Instr.matchValue, or_and_distrib_word]
  rw [placeRd_and (by decide), placeRs1_and (by decide), placeRs2_and (by decide)]
  rfl

theorem EncodeMatch.pdbl (rd rs1 : QReg) : EncodeMatch.Statement (.pdbl rd rs1) := by
  simp only [EncodeMatch.Statement, encode, Instr.mask, Instr.matchValue, or_and_distrib_word]
  rw [placeRd_and (by decide), placeRs1_and (by decide)]
  rfl

theorem EncodeMatch.pmul (rd rs1 : QReg) (rs2 : VReg) : EncodeMatch.Statement (.pmul rd rs1 rs2) := by
  simp only [EncodeMatch.Statement, encode, Instr.mask, Instr.matchValue, or_and_distrib_word]
  rw [placeRd_and (by decide), placeRs1_and (by decide), placeRs2_and (by decide)]
  rfl

end Sys2Proof.Laws
end

