-- ==== Sys2Proof/Laws/Step.lean ====
section
/-! SUPPORT. Everything a host transaction and a step can do, said once each. Whole-machine rules follow from these two
inversions and `effect_of_exec`. -/

namespace Sys2Proof.Laws

open Sys2Proof.Machine

/-- The ways a transaction can change the state (spec/10_state R146, R150 to R160; spec/20_memory R205, R221). -/
inductive HostEffect (s : State) : Transaction → State → Prop where
  /-- it only answers: every read but PC's during a run, a rejected access, an ignored write -/
  | answered (x : Transaction) (r : Response) (hx : (Move.bus x).isReset = false) :
      HostEffect s x { s with resp := some r }
  /-- it reads PC during a run -/
  | readPc (p : BitVec 9) (tr : List (BitVec 9)) (hb : s.runState = .busy)
      (htr : ∃ k, tr = s.trail.take (k + 1) ∨ tr = s.trail) :
      HostEffect s (.read 0x01C#14 .four)
        { s with trail := tr, draws := s.draws + 1, resp := some ⟨p.setWidth 32, false⟩ }
  /-- it soft-resets -/
  | softReset (d : CmdWord) (h : d.getLsbD 2 = true) :
      HostEffect s (.write 0x004#14 .four d) { s.softReset with resp := some ⟨0#32, false⟩ }
  /-- it starts a run -/
  | go (d : CmdWord) (h2 : d.getLsbD 2 = false) (h0 : d.getLsbD 0 = true) (hb : s.runState ≠ .busy) :
      HostEffect s (.write 0x004#14 .four d) { s.go with ie := d.getLsbD 1, resp := some ⟨0#32, false⟩ }
  /-- it stores IE -/
  | ie (d : CmdWord) (h2 : d.getLsbD 2 = false) (h0 : d.getLsbD 0 = false ∨ s.runState = .busy) :
      HostEffect s (.write 0x004#14 .four d) { s with ie := d.getLsbD 1, resp := some ⟨0#32, false⟩ }
  /-- it clears IRQ_PENDING -/
  | irqCleared (d : CmdWord) (h : d.getLsbD 3 = true) :
      HostEffect s (.write 0x008#14 .four d) { s with irqPending := false, resp := some ⟨0#32, false⟩ }
  /-- it writes START_PC -/
  | startPc (d : CmdWord) (hb : s.runState ≠ .busy) :
      HostEffect s (.write 0x018#14 .four d) { s with startPc := d.setWidth 8, resp := some ⟨0#32, false⟩ }
  /-- it writes a command word -/
  | command (off : BitVec 14) (i : Nat) (d : CmdWord) (hb : s.runState ≠ .busy) (hi : i < 256)
      (hoff : off.toNat = 0x1000 + 4 * i) :
      HostEffect s (.write off .four d) { s.setCmdWord i d with resp := some ⟨0#32, false⟩ }
  /-- it writes a word of the data RAM -/
  | data (off : BitVec 14) (j : Nat) (d : CmdWord) (hb : s.runState ≠ .busy) (hj : j < 1024)
      (hoff : off.toNat = 0x2000 + 4 * j) :
      HostEffect s (.write off .four d) { s.setDataWord j d with resp := some ⟨0#32, false⟩ }

theorem accepted_iff {off : BitVec 14} {size : AccessSize} :
    accepted off size = true ↔ size = .four ∧ off.toNat % 4 = 0 := by
  simp [accepted]

/-- An aligned 4-byte read is the read of its offset. -/
theorem transact_read {off : BitVec 14} (s : State) (h : off.toNat % 4 = 0) :
    s.transact (.read off .four) = s.hostRead off.toNat := if_pos (accepted_iff.2 ⟨rfl, h⟩)

/-- An aligned 4-byte write is the write of its offset, answered without an error. -/
theorem transact_write {off : BitVec 14} (s : State) (d : CmdWord) (h : off.toNat % 4 = 0) :
    s.transact (.write off .four d) = { s.writeWindow off.toNat d with resp := some ⟨0#32, false⟩ } :=
  if_pos (accepted_iff.2 ⟨rfl, h⟩)

/-- An accepted read but PC's during a run answers the window's word and changes nothing else. -/
theorem hostRead_eq (s : State) {off : Nat} (h : ¬ (off = 0x01C ∧ s.runState = .busy)) :
    s.hostRead off = { s with resp := some ⟨s.windowWord off, false⟩ } := if_neg h

/-- What reading PC during a run leaves: an entry of the trail, or pc when the trail is empty. -/
theorem drawPc_eq (s : State) : ∃ p tr, s.drawPc = (p, { s with trail := tr, draws := s.draws + 1 }) ∧
    ∃ k, tr = s.trail.take (k + 1) ∨ tr = s.trail := by
  unfold State.drawPc
  split
  · exact ⟨_, _, rfl, _, .inl rfl⟩
  · exact ⟨_, _, rfl, 0, .inr rfl⟩

/-- The inversion of `transact`. -/
theorem transact_effect (s : State) (x : Transaction) : HostEffect s x (s.transact x) := by
  cases x with
  | read off size =>
    dsimp only [State.transact]
    by_cases ha : accepted off size = true
    · rw [if_pos ha]
      obtain ⟨rfl, -⟩ := accepted_iff.1 ha
      unfold State.hostRead
      split
      · rename_i h
        obtain rfl : off = 0x01C#14 := BitVec.eq_of_toNat_eq (by simpa using h.1)
        obtain ⟨p, tr, he, hk⟩ := drawPc_eq s
        rw [he]
        exact .readPc p tr h.2 hk
      · exact .answered _ _ rfl
    · rw [if_neg ha]
      exact .answered _ _ rfl
  | write off size d =>
    dsimp only [State.transact]
    by_cases ha : accepted off size = true
    · rw [if_pos ha]
      obtain ⟨rfl, hmod⟩ := accepted_iff.1 ha
      have hlt := off.isLt
      unfold State.writeWindow
      by_cases h4 : off.toNat = 0x004
      · obtain rfl : off = 0x004#14 := BitVec.eq_of_toNat_eq (by simpa using h4)
        rw [if_pos h4]
        unfold State.writeCtrl
        by_cases h2 : d.getLsbD 2 = true
        · simp only [h2, if_true]
          exact .softReset d h2
        · have h2' : d.getLsbD 2 = false := by simpa using h2
          by_cases h0 : d.getLsbD 0 = true ∧ s.runState ≠ .busy
          · simp only [h2, h0, if_false, Bool.false_eq_true, ne_eq, not_false_eq_true, and_self, if_true]
            exact .go d h2' h0.1 h0.2
          · have hn : ¬ (d.getLsbD 0 = true ∧ ¬ s.runState = .busy) := h0
            simp only [h2, if_false, Bool.false_eq_true, ne_eq, hn]
            refine .ie d h2' ?_
            by_cases hd : d.getLsbD 0 = true
            · exact .inr (by by_contra hb; exact h0 ⟨hd, hb⟩)
            · exact .inl (by simpa using hd)
      rw [if_neg h4]
      by_cases h8 : off.toNat = 0x008
      · obtain rfl : off = 0x008#14 := BitVec.eq_of_toNat_eq (by simpa using h8)
        rw [if_pos h8]
        unfold State.writeStatus
        split
        · rename_i h3; exact .irqCleared d h3
        · exact .answered _ _ rfl
      rw [if_neg h8]
      have hne : off ≠ 0x004#14 := fun hh => h4 (by rw [hh]; rfl)
      have hnr : (Move.bus (.write off .four d)).isReset = false := by simp [Move.isReset, hne]
      split
      · exact .answered _ _ hnr
      rename_i hb
      split
      · rename_i h18
        obtain rfl : off = 0x018#14 := BitVec.eq_of_toNat_eq (by simpa using h18)
        exact .startPc d hb
      split
      · exact .command off _ d hb (by omega) (by omega)
      split
      · exact .data off _ d hb (by omega) (by omega)
      · exact .answered _ _ hnr
    · rw [if_neg ha]
      refine .answered _ _ ?_
      by_cases hs : size = .four
      · have : off ≠ 0x004#14 := by
          rintro rfl
          exact ha (accepted_iff.2 ⟨hs, rfl⟩)
        simp [Move.isReset, this]
      · simp [Move.isReset, hs]

/-- The ways a step can end (spec/10_state R132; spec/70_reset R1000, R1014). -/
inductive StepEffect (s : State) : State → Prop where
  /-- hardware reset -/
  | hardReset (hm : s.nextMove = .hardReset) : StepEffect s s.popMove.hardReset
  /-- a host transaction -/
  | host (x : Transaction) (t : State) (hm : s.nextMove = .bus x) (he : HostEffect s.popMove x t) : StepEffect s t
  /-- a core turn outside a run -/
  | rested (hm : s.nextMove = .core) (hb : s.runState ≠ .busy) : StepEffect s s.popMove
  /-- E_FETCH -/
  | fetchFault (hm : s.nextMove = .core) (hb : s.runState = .busy) (hp : 256 ≤ s.pc.toNat) :
      StepEffect s (s.popMove.raise .fetch 0#32).noteReached
  /-- E_ILLEGAL -/
  | illegal (why : Illegal) (hm : s.nextMove = .core) (hb : s.runState = .busy) (hp : s.pc.toNat < 256)
      (hd : decode (s.cmdWord s.pc.toNat) = .error why) :
      StepEffect s (s.popMove.raise .illegal (s.cmdWord s.pc.toNat)).noteReached
  /-- an instruction -/
  | executed (i : Instr) (u : State) (hm : s.nextMove = .core) (hb : s.runState = .busy) (hp : s.pc.toNat < 256)
      (hd : decode (s.cmdWord s.pc.toNat) = .ok i) (hx : exec i s.popMove = .next u) : StepEffect s u.noteReached

/-- The inversion of `step`. -/
theorem effect_of_step {s t : State} (h : step s = .next t) : StepEffect s t := by
  unfold step at h
  cases hm : s.nextMove with
  | hardReset => rw [hm] at h; cases h; exact .hardReset hm
  | bus x =>
    rw [hm] at h; cases h
    exact .host x _ hm (transact_effect _ x)
  | core =>
    rw [hm] at h
    simp only [runMove] at h
    unfold coreStep at h
    split at h
    · cases h; rename_i hb; exact .rested hm hb
    rename_i hb
    have hb' : s.runState = .busy := by simpa using hb
    split at h
    · rename_i hp; cases h; exact .fetchFault hm hb' hp
    rename_i hp
    have hp' : s.pc.toNat < 256 := by simpa using hp
    obtain ⟨u, hu, rfl⟩ := settle_eq_next h
    unfold State.runWord at hu
    split at hu
    · rename_i i hd; exact .executed i u hm hb' hp' hd hu
    · rename_i why hd; cases hu; exact .illegal why hm hb' hp' hd

/-! ### The moves at hand -/

theorem pending_ne_nil (s : State) : s.pending.1 ≠ [] := by
  unfold State.pending; split <;> simp

/-- The next move and the moves at hand after it are the moves at hand. -/
theorem nextMove_cons_popMove (s : State) : s.nextMove :: s.popMove.schedule = s.pending.1 := by
  obtain ⟨mv, ms, h⟩ := List.exists_cons_of_ne_nil (pending_ne_nil s)
  simp [State.nextMove, h]

/-- A host transaction leaves the moves still to come as they are. -/
theorem moves_of_hostEffect {s t : State} {x : Transaction} (h : HostEffect s x t) :
    t.schedule = s.schedule ∧ t.stream = s.stream := by
  cases h <;> simp

/-- A step takes the next move off those still to come and leaves the others as they are. -/
theorem moves_of_step {s t : State} (h : step s = .next t) :
    t.schedule = s.popMove.schedule ∧ t.stream = s.popMove.stream := by
  cases effect_of_step h with
  | host x t _ he => exact moves_of_hostEffect he
  | executed i u _ _ _ _ hx => cases effect_of_exec hx <;> simp
  | _ => simp

end Sys2Proof.Laws
end

