-- ==== Sys2Proof/Tests/Slice0.lean ====
section
/-! SUPPORT. The model's own tests: ill-formed terms are refused, words written out from the bit diagrams of
spec/30_encoding decode, one step of each instruction gives the value of spec/95_test_vectors, and for every statement
with hypotheses a state and operands that meet them. No expected value comes from the model. -/

namespace Sys2Proof.Tests

open Sys2Proof Sys2Proof.Machine

/-! ### The small state the tests run on -/

/-- `W - 1`. -/
def allOnes : Word := BitVec.ofNat 256 (W - 1)

/-- The generator as a point (spec/10_state R140). -/
def pointG : Point := affine genX genY

/-- The double of the generator (spec/95_test_vectors S10). -/
def point2G : Point :=
  affine 0xC6047F9441ED7D6D3045406E95C07CD85C778E4B8CEF3CA7ABAC09B95C709EE5
    0x1AE168FEA63DC339A3C58419466CEAEEF7F632653266D0E1236431A950CFE52A

/-- The inverse of the generator (spec/95_test_vectors K3). -/
def pointNegG : Point :=
  affine genX 0xB7C52588D95C3B9AA25B0403F1EEF75702E84BB7597AABE663B82F6F04EF2777

/-- Two coordinates off the curve: `1 ≠ 1 + 7`. -/
def offCurve : Point := .aff 1#256 1#256

/-- The value registers of the tests. -/
def demoV : State :=
  (((((((((State.reset.writeV 1#4 50#256).writeV 2#4 60#256).writeV 3#4 3#256).writeV 4#4
    (BitVec.ofNat 256 genX)).writeV 5#4 5#256).writeV 6#4 (BitVec.ofNat 256 genY)).writeV 7#4 0#256).writeV 8#4
      allOnes).writeV 9#4 (BitVec.ofNat 256 primeP)).writeV 10#4 97#256

/-- A run at index 0: V1 to V10, M = 97, Q1 = G, Q2 = INF, Q3 = 2G, Q4 = -G and Q5 off the curve are valid, the other
registers are not, F is 1. -/
def demo : State :=
  { ((((((demoV.writeV 11#4 1#256).writeQ 1#4 pointG).writeQ 2#4 .inf).writeQ 3#4 point2G).writeQ 4#4
      pointNegG).writeQ 5#4 offCurve).writeM 97#256 with
    f := true, runState := .busy, trail := [0#9] }

/-- `s` with the word `w` where its pc points. -/
def holding (s : State) (w : CmdWord) : State := s.setCmdWord s.pc.toNat w

/-- `s` at index `p`. -/
def atIndex (s : State) (p : BitVec 9) : State := { s with pc := p, trail := [p] }

/-- `s` in another STATE, its run over. -/
def resting (s : State) (r : RunState) : State := { s with runState := r, trail := [] }

/-- `s` with a host transaction as the next move. -/
def beforeBus (s : State) (x : Transaction) : State := { s with schedule := [.bus x] }

/-- `s` with a hardware reset as the next move. -/
def beforeReset (s : State) : State := { s with schedule := [.hardReset] }

/-- What one step of `s` leaves when the word `w` is the next instruction. -/
def after (s : State) (w : Nat) : Option State :=
  match step (s.withFetchWord 32 w) with
  | .next t => some t
  | .fault _ => none
  | .refused _ => none

/-- V register `r` after the step, or nothing. -/
def vAfter (s : State) (w : Nat) (r : VReg) : Option Word := (after s w).map fun t => t.vReg r

/-- Q register `r` after the step, or nothing. -/
def qAfter (s : State) (w : Nat) (r : QReg) : Option Point := (after s w).map fun t => t.qReg r

/-- pc and STATE after the step. -/
def flowAfter (s : State) (w : Nat) : Option (BitVec 9 × RunState) := (after s w).map fun t => (t.pc, t.runState)

/-- STATE, CAUSE, FAULT_PC and FAULT_INSTR after the step. -/
def recordAfter (s : State) (w : Nat) : Option (RunState × BitVec 4 × BitVec 9 × CmdWord) :=
  (after s w).map fun t => (t.runState, t.cause, t.faultPc, t.faultInstr)

/-! ### Well-formedness: one ill-formed term for each check (spec/30_encoding R321) -/

theorem test_illFormed_madd : (Instr.madd 3#2 0#4 0#4 0#4).WellFormed = false := by decide
theorem test_illFormed_msub : (Instr.msub 3#2 0#4 0#4 0#4).WellFormed = false := by decide
theorem test_illFormed_mmul : (Instr.mmul 3#2 0#4 0#4 0#4).WellFormed = false := by decide
theorem test_illFormed_minv : (Instr.minv 3#2 0#4 0#4).WellFormed = false := by decide
theorem test_illFormed_ldc : (Instr.ldc 0#4 7#4).WellFormed = false := by decide

/-! ### Words written out from the bit diagrams of spec/30_encoding R301, R302 and the opcodes of R320 -/

theorem test_words_control :
    decode 0b00000100000000000000000000000000#32 = .ok .nop ∧
    decode 0b00001000000000000000000000000000#32 = .ok .halt ∧
    decode 0b00001100000000000000000010000001#32 = .ok (.j 0x81#8) ∧
    decode 0b00010000000000000000000000010001#32 = .ok (.bf 17#8) ∧
    decode 0b00010100000000000000000000010001#32 = .ok (.bnf 17#8) := ⟨rfl, rfl, rfl, rfl, rfl⟩

theorem test_words_movement :
    decode 0b00100000101000000000000001000101#32 = .ok (.ldv 10#4 69#7) ∧
    decode 0b00100100000010100000000001000101#32 = .ok (.stv 10#4 69#7) ∧
    decode 0b00101000001100000000100000000001#32 = .ok (.ldi 3#4 2049#12) ∧
    decode 0b00101100011100000000000000000010#32 = .ok (.ldc 7#4 2#4) ∧
    decode 0b00110000000100100000000000000000#32 = .ok (.mov 1#4 2#4) ∧
    decode 0b00110100000011110000000000000000#32 = .ok (.setm 15#4) := ⟨rfl, rfl, rfl, rfl, rfl, rfl⟩

theorem test_words_arithmetic :
    decode 0b01000000001100010010000000000000#32 = .ok (.madd 0#2 3#4 1#4 2#4) ∧
    decode 0b01000101001101010010000000000000#32 = .ok (.msub 1#2 3#4 5#4 2#4) ∧
    decode 0b01001010100110000111000000000000#32 = .ok (.mmul 2#2 9#4 8#4 7#4) ∧
    decode 0b01001101100001110000000000000000#32 = .ok (.minv 1#2 8#4 7#4) ∧
    decode 0b01010000000001000101000000000000#32 = .ok (.cmpge 4#4 5#4) := ⟨rfl, rfl, rfl, rfl, rfl⟩

theorem test_words_points :
    decode 0b01100000000100100011000000000000#32 = .ok (.mkpt 1#4 2#4 3#4) ∧
    decode 0b01100100111100000000000000000000#32 = .ok (.mkinf 15#4) ∧
    decode 0b01101000010100010000000000000000#32 = .ok (.pmov 5#4 1#4) ∧
    decode 0b01101100010000110000000000000000#32 = .ok (.ptx 4#4 3#4) ∧
    decode 0b01110000010000110000000000000000#32 = .ok (.pty 4#4 3#4) ∧
    decode 0b01110100000001110000000000000000#32 = .ok (.ptinf 7#4) := ⟨rfl, rfl, rfl, rfl, rfl, rfl⟩

theorem test_words_pointArithmetic :
    decode 0b10000000001100010010000000000000#32 = .ok (.padd 3#4 1#4 2#4) ∧
    decode 0b10000100001000010000000000000000#32 = .ok (.pdbl 2#4 1#4) ∧
    decode 0b10001000010000010011000000000000#32 = .ok (.pmul 4#4 1#4 3#4) := ⟨rfl, rfl, rfl⟩

/-- The illegal words of spec/95_test_vectors 3.1, one for each item of R322. -/
theorem test_words_illegal :
    decode 0x00000000#32 = .error .opZero ∧ decode 0x18000000#32 = .error .opUnassigned ∧
    decode 0xFC000000#32 = .error .opUnassigned ∧ decode 0x0C000100#32 = .error .mustBeZero ∧
    decode 0x60112001#32 = .error .mustBeZero ∧ decode 0x4B123000#32 = .error .modulusSelect ∧
    decode 0x2C000007#32 = .error .constantId := ⟨rfl, rfl, rfl, rfl, rfl, rfl, rfl⟩

/-- Assembled words of spec/95_test_vectors 3.1. -/
theorem test_words_encoded :
    encode (.madd 1#2 15#4 15#4 15#4) = 0x41FFF000#32 ∧ encode (.stv 1#4 127#7) = 0x2401007F#32 ∧
    encode (.cmpge 0#4 15#4) = 0x5000F000#32 ∧ encode (.pdbl 3#4 3#4) = 0x84330000#32 ∧
    encode (.pmul 1#4 1#4 2#4) = 0x88112000#32 ∧ encode (.bf 0#8) = 0x10000000#32 := by decide

/-- The host's two questions, on the first row of the opcode table. -/
theorem test_first_instruction_after_reset :
    decodeTableWord 32 0x04000000 = some .nop ∧ flowAfter State.reset 0x04000000 = some (1#9, .busy) := by decide

/-! ### One step of each instruction (values of spec/95_test_vectors 3.2 to 3.10) -/

/-- Control, 3.10. -/
theorem test_nop : flowAfter (atIndex demo 16#9) 0x04000000 = some (17#9, .busy) := by decide
theorem test_halt : flowAfter (atIndex demo 12#9) 0x08000000 = some (12#9, .done) := by decide
theorem test_j : flowAfter (atIndex demo 15#9) 0x0C000013 = some (19#9, .busy) := by decide
theorem test_bf_taken : flowAfter (atIndex demo 6#9) 0x10000008 = some (8#9, .busy) := by decide
theorem test_bnf_not_taken : flowAfter (atIndex demo 10#9) 0x14000007 = some (11#9, .busy) := by decide

/-- `stv v4, [127]` then the last byte of the data RAM and the host word at 0x2FE0 are those of Gx (3.9). -/
theorem test_stv : (after demo 0x2404007F).map (fun t => (t.readByte 4095, t.dataWord 1016)) =
    some (0x98#8, 0x79BE667E#32) := by decide

/-- What STV stored, LDV loads (3.9). -/
theorem test_ldv : ((after demo 0x2404007F).map fun t => vAfter t 0x20E0007F 14#4) =
    some (some (BitVec.ofNat 256 genX)) := by decide

theorem test_ldi : vAfter demo 0x28F00FFF 15#4 = some 4095#256 := by decide
theorem test_ldc : vAfter demo 0x2C100003 1#4 =
    some 0xFFFFFFFFFFFFFFFFFFFFFFFFFFFFFFFEBAAEDCE6AF48A03BBFD25E8CD0364141#256 := by decide
theorem test_mov : vAfter demo 0x30150000 1#4 = some 5#256 := by decide
theorem test_setm : (after demo 0x34010000).map (fun t => (t.m, t.validM)) = some (50#256, true) := by decide

/-- MADD: 50 + 60 modulo M = 97, and the raw sum exactly W modulo P (3.2). -/
theorem test_madd : vAfter demo 0x42112000 1#4 = some 0xD#256 := by decide
theorem test_madd_carry : vAfter demo 0x4008B000 0#4 = some 0x1000003D1#256 := by decide

/-- MSUB: 50 - 60 modulo M = 97, and 3 - 5 modulo P (3.3). -/
theorem test_msub : vAfter demo 0x46112000 1#4 = some 0x57#256 := by decide
theorem test_msub_borrow : vAfter demo 0x44035000 0#4 =
    some 0xFFFFFFFFFFFFFFFFFFFFFFFFFFFFFFFFFFFFFFFFFFFFFFFFFFFFFFFEFFFFFC2D#256 := by decide

/-- MMUL: 50 · 60 modulo M = 97, and non-canonical operands modulo P (3.4). -/
theorem test_mmul : vAfter demo 0x4A112000 1#4 = some 0x5A#256 := by decide
theorem test_mmul_full : vAfter demo 0x48088000 0#4 = some 0x1000007A0000E8900#256 := by decide

/-- MINV: 50 modulo M = 97, and 3 modulo N (3.5). -/
theorem test_minv : vAfter demo 0x4E110000 1#4 = some 0x21#256 := by decide +kernel
theorem test_minv_order : vAfter demo 0x4D030000 0#4 =
    some 0xAAAAAAAAAAAAAAAAAAAAAAAAAAAAAAA9D1C9E899CA306AD27FE1945DE0242B81#256 := by decide +kernel

/-- CMPGE: W - 1 against 0 and back (3.6). -/
theorem test_cmpge : ((after demo 0x50087000).map State.f, (after demo 0x50078000).map State.f) =
    (some true, some false) := by decide

/-- MKPT of (Gx, Gy); of (P, 0), refused for its range before its curve (3.7). -/
theorem test_mkpt : qAfter demo 0x60046000 0#4 = some pointG := by decide +kernel
theorem test_mkpt_range : recordAfter demo 0x60097000 = some (.fault, 7#4, 0#9, 0x60097000#32) := by decide

theorem test_mkinf : qAfter demo 0x64100000 1#4 = some .inf := by decide
theorem test_pmov : qAfter demo 0x68510000 5#4 = some pointG := by decide
theorem test_ptx : vAfter demo 0x6C110000 1#4 = some (BitVec.ofNat 256 genX) := by decide
theorem test_ptx_infinity : recordAfter demo 0x6C120000 = some (.fault, 8#4, 0#9, 0x6C120000#32) := by decide
theorem test_pty : vAfter demo 0x70110000 1#4 = some (BitVec.ofNat 256 genY) := by decide
theorem test_ptinf : ((after demo 0x74020000).map State.f, (after demo 0x74010000).map State.f) =
    (some true, some false) := by decide

/-- PDBL: 2G; a Q source never written is E_UNINIT (3.7). -/
theorem test_pdbl : qAfter demo 0x84010000 0#4 = some point2G := by decide +kernel
theorem test_pdbl_uninit : recordAfter demo 0x84060000 = some (.fault, 3#4, 0#9, 0x84060000#32) := by decide

/-- PADD: G + 2G into a source, and G + (-G) (3.7). -/
theorem test_padd : qAfter demo 0x80113000 1#4 =
    some (affine 0xF9308A019258C31049344F85F89D5229B531C845836F99B08601F113BCE036F9
      0x388F7B0F632DE8140FE337E62A37F3566500A99934C2231B6CB9FD7584B8E672) := by decide +kernel
theorem test_padd_inverse : qAfter demo 0x80114000 1#4 = some .inf := by decide +kernel

/-- PMUL: 5G (3.7). -/
theorem test_pmul : qAfter demo 0x88115000 1#4 =
    some (affine 0x2F8BDE4D1A07209355B4A7250A5C5128E88B84BDDC619AB7CBA8D569B240EFE4
      0xD8AC222636E5E3D6D4DBA9DDA6C9C426F788271BAB0D6840DCA87D3AA6AC62D6) := by decide +kernel

/-- Priority (3.11): an invalid source before an unusable modulus. -/
theorem test_uninit_before_modulus :
    recordAfter (demo.writeM 16#256) 0x4A0C1000 = some (.fault, 3#4, 0#9, 0x4A0C1000#32) ∧
    recordAfter (demo.writeM 16#256) 0x4A012000 = some (.fault, 4#4, 0#9, 0x4A012000#32) := by decide

/-- STATUS after a HALT with F = 1, and after the host wrote 8 to it (3.11). -/
theorem test_status : (after demo 0x08000000).map (fun t =>
    (t.statusWord, (t.transact (.write 0x008#14 .four 8#32)).statusWord)) = some (0xE#32, 0x6#32) := by decide

/-- A 16-bit access anywhere is rejected; the data RAM reads 0 while BUSY (3.11). -/
theorem test_bus : (demo.transact (.read 0x004#14 .two)).resp = some ⟨0#32, true⟩ ∧
    (demo.transact (.read 0x2000#14 .four)).resp = some ⟨0#32, false⟩ := by decide

/-! ### Witnesses: for every statement with hypotheses, a state and operands that meet them, clause by clause -/

theorem test_witness_DecodeEncodeInverse :
    (Instr.madd 2#2 15#4 15#4 15#4).WellFormed = true ∧ (Instr.ldc 0#4 6#4).WellFormed = true ∧
    decode 0x42FFF000#32 = .ok (.madd 2#2 15#4 15#4 15#4) := ⟨rfl, rfl, rfl⟩

theorem test_witness_DecodeIsTheTable :
    (0x40312000#32 &&& 0xFC000FFF#32 = 0x40000000#32) ∧
    ∀ r ∈ decodeRows, ¬ (0x43000000#32 &&& r.mask = r.value ∧ (r.instr 0x43000000#32).WellFormed = true) := by decide

theorem test_witness_IllegalWords :
    (holding demo 0#32).nextMove = .core ∧ (holding demo 0#32).runState = .busy ∧
    (holding demo 0#32).pc.toNat < 256 ∧ ∃ why, decode ((holding demo 0#32).cmdWord 0) = .error why :=
  ⟨rfl, rfl, by decide, _, rfl⟩

theorem test_witness_StepRunsDecodedInstruction :
    ((holding (atIndex demo 255#9) 0x04000000#32).nextMove = .core ∧
      (holding (atIndex demo 255#9) 0x04000000#32).runState = .busy ∧
      (holding (atIndex demo 255#9) 0x04000000#32).pc.toNat < 256 ∧
      decode ((holding (atIndex demo 255#9) 0x04000000#32).cmdWord 255) = .ok .nop) ∧
    (State.reset.nextMove = .core ∧ State.reset.runState ≠ .busy) ∧
    (beforeBus demo (.read 0x008#14 .four)).nextMove = .bus (.read 0x008#14 .four) ∧
    (beforeReset demo).schedule = [.hardReset] ∧
    ({ demo with stream := some 3 } : State).pending = (Config.hostMoves 3 ++ [.core], some 4) ∧
    demo.schedule = [] ∧ demo.stream = none :=
  ⟨⟨rfl, rfl, by decide, rfl⟩, ⟨rfl, by decide⟩, rfl, rfl, rfl, rfl, rfl⟩

theorem test_witness_FetchPastEnd :
    ((atIndex demo 256#9).nextMove = .core ∧ (atIndex demo 256#9).runState = .busy ∧
      (atIndex demo 256#9).pc = 256#9) ∧
    ∃ t, step (holding (atIndex demo 255#9) 0x04000000#32) = .next t ∧ t.pc = 256#9 ∧
      (holding (atIndex demo 255#9) 0x04000000#32).pc ≠ 256#9 := ⟨⟨rfl, rfl, rfl⟩, _, rfl, rfl, by decide⟩

theorem test_witness_WherePcStands :
    (∃ t, step (holding demo 0x08000000#32) = .next t ∧ t.runState = .done) ∧
    (∃ t, step (holding demo 0x00000000#32) = .next t ∧ t.runState = .fault) ∧
    (∃ t, step (beforeBus (resting (atIndex demo 9#9) .done) (.write 0x004#14 .four 1#32)) = .next t ∧
      t.pc ≠ 9#9) ∧
    (∃ t, step (beforeBus (resting (atIndex demo 9#9) .fault) (.write 0x004#14 .four 4#32)) = .next t ∧
      t.pc ≠ 9#9) :=
  ⟨⟨_, rfl, rfl⟩, ⟨_, rfl, rfl⟩, ⟨_, rfl, by decide⟩, _, rfl, by decide⟩

theorem test_witness_RunStateTransitions :
    (∃ t, step (beforeBus State.reset (.write 0x004#14 .four 1#32)) = .next t ∧ t.runState = .busy) ∧
    (∃ t, step (holding demo 0x08000000#32) = .next t ∧ t.runState = .done) ∧
    (∃ t, step (holding demo 0x00000000#32) = .next t ∧ t.runState = .fault) ∧
    (∃ t, step (beforeBus demo (.write 0x004#14 .four 5#32)) = .next t ∧ t.runState = .idle) ∧
    (∃ t, step (beforeReset demo) = .next t ∧ t.runState = .idle) :=
  ⟨⟨_, rfl, rfl⟩, ⟨_, rfl, rfl⟩, ⟨_, rfl, rfl⟩, ⟨_, rfl, rfl⟩, _, rfl, rfl⟩

theorem test_witness_StvStoresBigEndian : demo.vValid 4#4 = true ∧ slotAddr 127#7 + 32 = 4096 := by decide

theorem test_witness_ImmediateCopyAndModulus : demo.vValid 5#4 = true := by decide

theorem test_witness_LdcConstants : demo.validM = true := by decide

/-- The three moduli, and M valid and not. -/
theorem test_witness_MaddResult :
    demo.validM = true ∧ State.reset.validM = false ∧
    demo.modval 0#2 = .ok (BitVec.ofNat 256 primeP) ∧ demo.modval 1#2 = .ok (BitVec.ofNat 256 orderN) ∧
    demo.modval 2#2 = .ok 97#256 ∧ demo.vValid 8#4 = true ∧ demo.vValid 11#4 = true :=
  ⟨rfl, rfl, rfl, rfl, rfl, rfl, rfl⟩

theorem test_witness_MaddCanonical :
    demo.modval 2#2 = .ok 97#256 ∧ demo.vValid 1#4 = true ∧ demo.vValid 2#4 = true ∧
    (demo.vReg 1#4).toNat < (97#256 : Word).toNat ∧ (demo.vReg 2#4).toNat < (97#256 : Word).toNat :=
  ⟨rfl, rfl, rfl, by decide, by decide⟩

theorem test_witness_MsubResult :
    demo.modval 0#2 = .ok (BitVec.ofNat 256 primeP) ∧ demo.vValid 7#4 = true ∧ demo.vValid 8#4 = true ∧
    (demo.vReg 7#4).toNat < (demo.vReg 8#4).toNat := ⟨rfl, rfl, rfl, by decide⟩

theorem test_witness_MsubCanonical :
    (demo.modval 2#2 = .ok 97#256 ∧ demo.vValid 1#4 = true ∧ demo.vValid 2#4 = true ∧
      (demo.vReg 1#4).toNat < (97#256 : Word).toNat ∧ (demo.vReg 2#4).toNat < (97#256 : Word).toNat ∧
      (1#4 : VReg) ≠ 2#4) ∧
    (demo.vValid 10#4 = true ∧ demo.vReg 10#4 = 97#256 ∧ (demo.vReg 7#4).toNat < (97#256 : Word).toNat ∧
      demo.vValid 7#4 = true ∧ (10#4 : VReg) ≠ 7#4) :=
  ⟨⟨rfl, rfl, rfl, by decide, by decide, by decide⟩, by decide⟩

theorem test_witness_MmulResult :
    (demo.modval 0#2 = .ok (BitVec.ofNat 256 primeP) ∧ ((0#2 : BitVec 2) ≠ 2#2)) ∧
    ((demo.writeM 3#256).modval 2#2 = .ok 3#256 ∧ (3#256 : Word).toNat % 2 = 1 ∧ 3 ≤ (3#256 : Word).toNat) ∧
    demo.vValid 8#4 = true := ⟨⟨rfl, by decide⟩, ⟨rfl, by decide, by decide⟩, rfl⟩

theorem test_witness_MinvResult :
    ((demo.writeM 3#256).modval 2#2 = .ok 3#256 ∧ (3#256 : Word).toNat % 2 = 1 ∧ 3 ≤ (3#256 : Word).toNat) ∧
    (demo.writeM 3#256).vValid 1#4 = true ∧
    Nat.gcd (((demo.writeM 3#256).vReg 1#4).toNat % (3#256 : Word).toNat) (3#256 : Word).toNat = 1 :=
  ⟨⟨rfl, by decide, by decide⟩, rfl, by decide +kernel⟩

theorem test_witness_NoInverseRaised :
    ((demo.writeM 15#256).modval 2#2 = .ok 15#256 ∧ (15#256 : Word).toNat % 2 = 1 ∧ 3 ≤ (15#256 : Word).toNat ∧
      (demo.writeM 15#256).vValid 5#4 = true) ∧
    (demo.modval 1#2 = .ok (BitVec.ofNat 256 orderN) ∧ demo.vValid 7#4 = true ∧
      (demo.vReg 7#4).toNat % orderN = 0) ∧
    (∃ t, exec (.pdbl 0#4 6#4) demo = .next t) :=
  ⟨⟨rfl, by decide, by decide, rfl⟩, ⟨rfl, rfl, by decide⟩, _, rfl⟩

/-- M = 16, 1 and 0 (spec/95_test_vectors 3.4). -/
theorem test_witness_ModulusRaised :
    demo.validM = true ∧ demo.vValid 1#4 = true ∧ demo.vValid 2#4 = true ∧
    (16#256 : Word).toNat % 2 = 0 ∧ (1#256 : Word).toNat < 3 ∧
    (demo.writeM 0#256).runState = .busy ∧
    exec (.mmul 2#2 0#4 1#4 2#4) (demo.writeM 0#256) =
      .next ((demo.writeM 0#256).raise .modulus (encode (.mmul 2#2 0#4 1#4 2#4))) :=
  ⟨rfl, rfl, rfl, by decide, by decide, rfl, rfl⟩

theorem test_witness_CmpgeResult : demo.vValid 8#4 = true ∧ demo.vValid 7#4 = true := by decide

theorem test_witness_UninitRaised :
    ((Instr.madd 2#2 0#4 12#4 1#4).WellFormed = true ∧ 12#4 ∈ (Instr.madd 2#2 0#4 12#4 1#4).vSources ∧
      demo.vValid 12#4 = false) ∧
    (6#4 ∈ (Instr.pmul 0#4 6#4 1#4).qSources ∧ demo.qValid 6#4 = false) ∧
    ((Instr.ldc 0#4 6#4).readsM = true ∧ State.reset.validM = false) ∧
    (demo.runState = .busy ∧ exec (.mov 0#4 15#4) demo =
      .next (demo.raise .uninit (encode (.mov 0#4 15#4)))) :=
  ⟨by decide, by decide, by decide, rfl, rfl⟩

theorem test_witness_MkptChecksThenWrites :
    (demo.vValid 9#4 = true ∧ demo.vValid 7#4 = true ∧ primeP ≤ (demo.vReg 9#4).toNat) ∧
    ((demo.vReg 7#4).toNat < primeP ∧ fieldOf (demo.vReg 7#4) ^ 2 ≠ fieldOf (demo.vReg 7#4) ^ 3 + 7) ∧
    (demo.vValid 4#4 = true ∧ demo.vValid 6#4 = true ∧ (demo.vReg 4#4).toNat < primeP ∧
      (demo.vReg 6#4).toNat < primeP ∧ fieldOf (demo.vReg 6#4) ^ 2 = fieldOf (demo.vReg 4#4) ^ 3 + 7) := by
  refine ⟨by decide, ⟨by decide, ?_⟩, by decide, by decide, by decide, by decide, ?_⟩
  · intro h
    have h7 : ((0 : Nat) : ZMod primeP) = ((7 : Nat) : ZMod primeP) := by
      have h0 : (demo.vReg 7#4).toNat = 0 := by decide
      simpa [fieldOf, h0] using h
    exact absurd ((ZMod.natCast_eq_natCast_iff' 0 7 primeP).1 h7) (by decide)
  · have h7 : ((genY ^ 2 : Nat) : ZMod primeP) = ((genX ^ 3 + 7 : Nat) : ZMod primeP) :=
      (ZMod.natCast_eq_natCast_iff' _ _ primeP).2 (by decide +kernel)
    have hx : (demo.vReg 4#4).toNat = genX := by decide
    have hy : (demo.vReg 6#4).toNat = genY := by decide
    rw [fieldOf, fieldOf, hx, hy]
    exact_mod_cast h7

theorem test_witness_PointMovesAndReads :
    demo.qValid 1#4 = true ∧ demo.qReg 1#4 = .aff (BitVec.ofNat 256 genX) (BitVec.ofNat 256 genY) := by decide

/-- Range and curve of MKPT, and the defensive check of PDBL, PADD and PMUL. -/
theorem test_witness_PointChecksRaised :
    ((demo.vReg 7#4).toNat < primeP ∧ onCurve (demo.vReg 7#4).toNat (demo.vReg 7#4).toNat = false) ∧
    (demo.qValid 5#4 = true ∧ validPt (demo.qReg 5#4) = false ∧ demo.qValid 1#4 = true ∧ demo.vValid 1#4 = true) ∧
    (demo.vValid 9#4 = true ∧ demo.vValid 7#4 = true ∧ primeP ≤ (demo.vReg 9#4).toNat) ∧ demo.runState = .busy ∧
    exec (.mkpt 0#4 9#4 7#4) demo = .next (demo.raise .invalidEncoding (encode (.mkpt 0#4 9#4 7#4))) ∧
    exec (.mkpt 0#4 7#4 7#4) demo = .next (demo.raise .invalidPoint (encode (.mkpt 0#4 7#4 7#4))) ∧
    exec (.padd 0#4 5#4 1#4) demo = .next (demo.raise .invalidPoint (encode (.padd 0#4 5#4 1#4))) :=
  ⟨by decide, by decide, by decide, rfl, rfl, rfl, rfl⟩

theorem test_witness_InfinityRaised :
    demo.qValid 2#4 = true ∧ demo.qReg 2#4 = .inf ∧ demo.runState = .busy ∧
    exec (.ptx 0#4 2#4) demo = .next (demo.raise .infinity (encode (.ptx 0#4 2#4))) :=
  ⟨rfl, rfl, rfl, rfl⟩

theorem test_witness_DoublingRule : fieldOf 1#256 ≠ 0 := by
  intro h
  have h1 : ((1 : Nat) : ZMod primeP) = ((0 : Nat) : ZMod primeP) := by simpa [fieldOf] using h
  exact absurd ((ZMod.natCast_eq_natCast_iff' 1 0 primeP).1 h1) (by decide)

/-- Both clauses on two affine points: one x with two y, and two x. -/
theorem test_witness_AdditionRule :
    BitVec.ofNat 256 genY ≠ 0xB7C52588D95C3B9AA25B0403F1EEF75702E84BB7597AABE663B82F6F04EF2777#256 ∧
    fieldOf 1#256 ≠ fieldOf (BitVec.ofNat 256 genX) := by
  refine ⟨by decide, fun h => ?_⟩
  exact absurd ((ZMod.natCast_eq_natCast_iff' 1 (BitVec.ofNat 256 genX).toNat primeP).1 (by simpa [fieldOf] using h))
    (by decide)

theorem test_witness_GroupLawOnValidPoints :
    validPt .inf = true ∧ validPt pointG = true ∧ validPt pointNegG = true ∧ validPt point2G = true := by
  decide +kernel

theorem test_witness_AdditionCommutes : validPt pointG = true ∧ validPt point2G = true := by decide +kernel

theorem test_witness_PointAdderResults :
    demo.qValid 1#4 = true ∧ demo.qValid 5#4 = true ∧ validPt (demo.qReg 1#4) = true ∧
    validPt (demo.qReg 5#4) = false := by decide +kernel

theorem test_witness_PmulDoubleAndAdd :
    demo.qValid 1#4 = true ∧ demo.vValid 8#4 = true ∧ validPt (demo.qReg 1#4) = true := by decide +kernel

theorem test_witness_PmulCornerCases :
    (demo.qValid 2#4 = true ∧ demo.qReg 2#4 = .inf ∧ validPt (demo.qReg 2#4) = true) ∧
    (demo.vValid 7#4 = true ∧ (demo.vReg 7#4).toNat = 0) ∧ (demo.vValid 11#4 = true ∧ (demo.vReg 11#4).toNat = 1) ∧
    ((demo.writeV 0#4 (BitVec.ofNat 256 orderN)).vReg 0#4).toNat = orderN ∧
    ((demo.writeV 0#4 (BitVec.ofNat 256 (orderN + 1))).vReg 0#4).toNat = orderN + 1 := by decide

theorem test_witness_FrameOfRegisters :
    ∃ t, exec (.ldi 3#4 7#12) demo = .next t ∧ (Instr.ldi 3#4 7#12).vDest ≠ some 15#4 ∧
      (Instr.ldi 3#4 7#12).qDest ≠ some 15#4 := ⟨_, rfl, by decide⟩

theorem test_witness_FrameOfDataRam :
    (∃ t, exec (.stv 3#4 1#7) demo = .next t) ∧ (Instr.stv 3#4 1#7).storeSlot = some 1#7 ∧
    (31 < slotAddr 1#7 ∧ slotAddr 1#7 + 32 ≤ 64) ∧ (Instr.cmpge 1#4 2#4).storeSlot = none :=
  ⟨⟨_, rfl⟩, rfl, by decide, rfl⟩

theorem test_witness_FrameOfHostSide : ∃ t, exec (.stv 3#4 1#7) demo = .next t := ⟨_, rfl⟩

theorem test_witness_FrameOfRunControl :
    (∃ t, exec .halt demo = .next t) ∧ ∃ t, exec (.ptx 0#4 2#4) demo = .next t := ⟨⟨_, rfl⟩, _, rfl⟩

theorem test_witness_OnlyComparesWriteF :
    (∃ t, exec (.j 255#8) demo = .next t ∧ (Instr.j 255#8).writesF = false) ∧
    (∃ t, step (beforeBus (resting demo .done) (.write 0x004#14 .four 3#32)) = .next t ∧ t.runState = .busy) ∧
    (∃ t, step (beforeReset demo) = .next t ∧ (beforeReset demo).nextMove.isReset = true) :=
  ⟨⟨_, rfl, rfl⟩, ⟨_, rfl, rfl⟩, _, rfl, rfl⟩

theorem test_witness_ModulusRegister :
    demo.vValid 1#4 = true ∧ State.reset.validM = false ∧
    (∃ t, exec (.ldi 3#4 7#12) demo = .next t ∧ (Instr.ldi 3#4 7#12).writesM = false) ∧
    (∃ t, step (beforeReset demo) = .next t ∧ (beforeReset demo).nextMove.isReset = true) ∧
    (∃ t, step (holding demo 0x34010000#32) = .next t ∧ t.m ≠ (holding demo 0x34010000#32).m) :=
  ⟨rfl, rfl, ⟨_, rfl, rfl⟩, ⟨_, rfl, rfl⟩, _, rfl, by decide⟩

theorem test_witness_ValidBitsOfV :
    (∃ t, step (beforeReset demo) = .next t ∧ (beforeReset demo).vValid 1#4 = true ∧ t.vValid 1#4 = false) ∧
    (∃ t, step (beforeBus demo (.write 0x004#14 .four 4#32)) = .next t ∧
      (beforeBus demo (.write 0x004#14 .four 4#32)).nextMove.isReset = true) ∧
    (∃ t, step (beforeBus State.reset (.write 0x004#14 .four 1#32)) = .next t ∧
      (beforeBus State.reset (.write 0x004#14 .four 1#32)).nextMove.isReset = false ∧
      (beforeBus State.reset (.write 0x004#14 .four 1#32)).nextMove ≠ .core) ∧
    demo.vValid 15#4 = false := ⟨⟨_, rfl, rfl, rfl⟩, ⟨_, rfl, rfl⟩, ⟨_, rfl, rfl, by decide⟩, rfl⟩

theorem test_witness_ValidBitsOfQ :
    (∃ t, step (beforeReset demo) = .next t ∧ (beforeReset demo).qValid 1#4 = true ∧ t.qValid 1#4 = false) ∧
    (∃ t, step (beforeBus demo (.write 0x004#14 .four 1#32)) = .next t ∧
      (beforeBus demo (.write 0x004#14 .four 1#32)).nextMove.isReset = false ∧
      (beforeBus demo (.write 0x004#14 .four 1#32)).nextMove ≠ .core) ∧
    demo.qValid 15#4 = false := ⟨⟨_, rfl, rfl, rfl⟩, ⟨_, rfl, rfl, by decide⟩, rfl⟩

theorem test_witness_ExceptionEntry :
    (demo.nextMove = .core ∧ demo.runState = .busy ∧
      (∃ t, step (holding demo 0x6C120000#32) = .next t ∧ t.runState = .fault) ∧
      ∃ t, step (atIndex demo 256#9) = .next t ∧ t.runState = .fault) ∧
    (∃ t, step (beforeBus (resting demo .fault) (.write 0x004#14 .four 1#32)) = .next t ∧ t.runState ≠ .fault) ∧
    (∃ t, step (beforeBus (resting demo .fault) (.write 0x004#14 .four 4#32)) = .next t ∧ t.runState ≠ .fault) :=
  ⟨⟨rfl, rfl, ⟨_, rfl, rfl⟩, _, rfl, rfl⟩, ⟨_, rfl, by decide⟩, _, rfl, by decide⟩

theorem test_witness_InterruptRaised :
    (∃ t, step (beforeReset demo) = .next t ∧ (beforeReset demo).nextMove.isReset = true) ∧
    (∃ t, step (holding demo 0x08000000#32) = .next t ∧ t.runState = .done ∧ demo.irqPending = false ∧
      t.irqPending = true) ∧
    (∃ t, step (atIndex demo 256#9) = .next t ∧ t.runState = .fault ∧ t.irqPending = true) :=
  ⟨⟨_, rfl, rfl⟩, ⟨_, rfl, rfl, rfl, rfl⟩, _, rfl, rfl, rfl⟩

theorem test_witness_InterruptPendingCleared :
    (∃ t, step (beforeBus { demo with irqPending := true } (.write 0x008#14 .four 8#32)) = .next t ∧
      t.irqPending = false) ∧
    (8#32 : CmdWord).getLsbD 3 = true ∧ (1#32 : CmdWord).getLsbD 2 = false := ⟨⟨_, rfl, rfl⟩, by decide⟩

theorem test_witness_BothResets :
    (5#32 : CmdWord).getLsbD 2 = true ∧ (beforeReset demo).nextMove = .hardReset := by decide

/-- Each kind of CTRL write, a START_PC write, and the ends of the ranges whose writes are ignored. -/
theorem test_witness_ControlRegister :
    ((3#32 : CmdWord).getLsbD 2 = false ∧ (3#32 : CmdWord).getLsbD 0 = true ∧ State.reset.runState ≠ .busy) ∧
    ((2#32 : CmdWord).getLsbD 2 = false ∧ (2#32 : CmdWord).getLsbD 0 = false ∧ demo.runState = .busy) ∧
    (5#32 : CmdWord).getLsbD 2 = true ∧ (resting demo .done).runState ≠ .busy ∧
    ([0x000#14, 0x00C#14, 0x01C#14, 0xFFC#14, 0x1400#14, 0x1FFC#14, 0x3000#14, 0x3FFC#14].all fun off : BitVec 14 =>
      off.toNat % 4 = 0 ∧
      ((off.toNat < 0x1000 ∧ off.toNat ≠ 0x004 ∧ off.toNat ≠ 0x008 ∧ off.toNat ≠ 0x018) ∨
        (0x1400 ≤ off.toNat ∧ off.toNat < 0x2000) ∨ 0x3000 ≤ off.toNat)) = true := by decide

/-- Both reserved ranges at their ends, and an aligned offset outside a run. -/
theorem test_witness_RegisterReads :
    (State.reset.runState ≠ .busy ∧ (0x3FFC#14 : BitVec 14).toNat % 4 = 0) ∧
    ([0x1400#14, 0x1FFC#14, 0x3000#14, 0x3FFC#14].all fun off : BitVec 14 =>
      off.toNat % 4 = 0 ∧ ((0x1400 ≤ off.toNat ∧ off.toNat < 0x2000) ∨ 0x3000 ≤ off.toNat)) = true ∧
    0x028 ≤ 0xFFC ∧ 0xFFC < 0x1000 := by decide

theorem test_witness_RejectedAccess :
    AccessSize.two ≠ .four ∧ (0x3FFE#14 : BitVec 14).toNat % 4 ≠ 0 := by decide

/-- The ends of the three ranges. -/
theorem test_witness_HostAccessDuringRun :
    demo.runState = .busy ∧ (0x018#14 : BitVec 14).toNat = 0x018 ∧
    (0x13FC#14 : BitVec 14).toNat % 4 = 0 ∧ 0x1000 ≤ (0x13FC#14 : BitVec 14).toNat ∧
    (0x13FC#14 : BitVec 14).toNat < 0x1400 ∧
    (0x2FFC#14 : BitVec 14).toNat % 4 = 0 ∧ 0x2000 ≤ (0x2FFC#14 : BitVec 14).toNat ∧
    (0x2FFC#14 : BitVec 14).toNat < 0x3000 ∧
    (0xFFC#14 : BitVec 14).toNat % 4 = 0 ∧ (0xFFC#14 : BitVec 14).toNat < 0x1000 ∧
    (0xFFC#14 : BitVec 14).toNat ≠ 0x01C := by decide

theorem test_witness_CommandRamAccess :
    (255 < 256 ∧ State.reset.runState ≠ .busy) ∧ (∃ t, coreStep (holding demo 0x04000000#32) = .next t) ∧
    (demo.runState = .busy ∧ demo.nextMove ≠ .hardReset ∧ ∃ t, step (holding demo 0x04000000#32) = .next t) :=
  ⟨by decide, ⟨_, rfl⟩, rfl, by decide, _, rfl⟩

theorem test_witness_DataWordLanes : 1023 < 1024 ∧ (resting demo .done).runState ≠ .busy := by decide

theorem test_witness_PcReadDuringRun : demo.runState = .busy ∧ demo.trail ≠ [] := by decide

theorem test_witness_HostCannotDisturbRun :
    demo.runState = .busy ∧ (Move.bus (.write 0x004#14 .four 3#32)).isReset = false ∧
    ∃ t, coreStep (holding demo 0x04000000#32) = .next t := ⟨rfl, rfl, _, rfl⟩

/-- Every part of the control invariant holds of the test state, in a run, and a step of it answers. -/
theorem test_witness_StepKeepsControlInv :
    ControlInv (holding demo 0x04000000#32) ∧ ∃ t, step (holding demo 0x04000000#32) = .next t :=
  ⟨⟨by unfold PcInRange; decide, ⟨rfl, rfl⟩, by unfold FaultRecordCoherent; decide,
    fun h => absurd h (by decide), by unfold TrailCoherent; decide⟩, _, rfl⟩

theorem test_witness_PointsStayOnCurve :
    PointsValid (demo.writeQ 5#4 pointG) ∧ (∃ t, step (holding (demo.writeQ 5#4 pointG) 0x64600000#32) = .next t) ∧
    (∃ t, exec (.mkinf 6#4) demo = .next t ∧ t.validP ≠ demo.validP) :=
  ⟨by unfold PointsValid; decide +kernel, ⟨_, rfl⟩, _, rfl, by decide⟩

end Sys2Proof.Tests
end

/-! ## What an instruction changes (10_state)

Frames of `Effect`, the inversion of `exec`: one lemma for each group of fields. -/

namespace Sys2Proof.StateRules

open Sys2Proof.Machine Sys2Proof.Laws

/-! ### Register contents depend on the register files alone -/

theorem vReg_congr {s t : State} (h : t.v = s.v) (r : VReg) : t.vReg r = s.vReg r := by
  simp only [State.vReg, h]

theorem vValid_congr {s t : State} (h : t.validV = s.validV) (r : VReg) : t.vValid r = s.vValid r := by
  simp only [State.vValid, h]

theorem qReg_congr {s t : State} (h : t.q = s.q) (r : QReg) : t.qReg r = s.qReg r := by
  simp only [State.qReg, h]

theorem qValid_congr {s t : State} (h : t.validP = s.validP) (r : QReg) : t.qValid r = s.qValid r := by
  simp only [State.qValid, h]

theorem vValid_of_validV_zero {t : State} (h : t.validV = 0#16) (r : VReg) : t.vValid r = false := by
  simp [State.vValid, h]

theorem qValid_of_validP_zero {t : State} (h : t.validP = 0#16) (r : QReg) : t.qValid r = false := by
  simp [State.qValid, h]

/-- The V, Q and M registers with their valid bits: what only an instruction and a reset write. -/
structure SameRegisters (s t : State) : Prop where
  v : t.v = s.v
  validV : t.validV = s.validV
  q : t.q = s.q
  validP : t.validP = s.validP
  m : t.m = s.m
  validM : t.validM = s.validM

/-! ### Which instructions have a destination -/

theorem instr_of_qDest {i : Instr} {rd : QReg} (h : i.qDest = some rd) :
    ∃ a b : BitVec 4, i = .mkpt rd a b ∨ i = .mkinf rd ∨ i = .pmov rd a ∨ i = .padd rd a b ∨ i = .pdbl rd a ∨
      i = .pmul rd a b := by
  cases i <;> simp [Instr.qDest] at h <;> simp [h]

theorem instr_of_writesM {i : Instr} (h : i.writesM = true) : ∃ rs1, i = .setm rs1 := by
  cases i <;> simp [Instr.writesM] at h ⊢

/-! ### Frames of an instruction's effect -/

section Frames

variable {i : Instr} {s t : State}

theorem effect_frame_v (h : Effect i s t) {r : VReg} (hr : i.vDest ≠ some r) :
    t.vReg r = s.vReg r ∧ t.vValid r = s.vValid r := by
  cases h with
  | wroteV rd x hd =>
    have hne : rd ≠ r := by rintro rfl; exact hr hd
    exact ⟨(vReg_writeV s rd r x).trans (if_neg hne), (vValid_writeV s rd r x).trans (if_neg hne)⟩
  | stored => exact ⟨vReg_congr (by simp) r, vValid_congr (by simp) r⟩
  | _ => exact ⟨rfl, rfl⟩

theorem effect_frame_q (h : Effect i s t) {r : QReg} (hr : i.qDest ≠ some r) :
    t.qReg r = s.qReg r ∧ t.qValid r = s.qValid r := by
  cases h with
  | wroteQ rd pt hd =>
    have hne : rd ≠ r := by rintro rfl; exact hr hd
    exact ⟨(qReg_writeQ s rd r pt).trans (if_neg hne), (qValid_writeQ s rd r pt).trans (if_neg hne)⟩
  | stored => exact ⟨qReg_congr (by simp) r, qValid_congr (by simp) r⟩
  | _ => exact ⟨rfl, rfl⟩

theorem effect_keeps_qFile (h : Effect i s t) (hd : i.qDest = none) : t.q = s.q ∧ t.validP = s.validP := by
  cases h with
  | wroteQ rd pt hd' => rw [hd] at hd'; cases hd'
  | _ => simp

theorem effect_keeps_m (h : Effect i s t) (hm : i.writesM = false) : t.m = s.m ∧ t.validM = s.validM := by
  cases h with
  | wroteM x hm' => rw [hm] at hm'; cases hm'
  | _ => simp

theorem effect_keeps_f (h : Effect i s t) (hf : i.writesF = false) : t.f = s.f := by
  cases h with
  | wroteF b hf' => rw [hf] at hf'; cases hf'
  | _ => simp

/-- No instruction clears the valid bit of a V register (R102). -/
theorem effect_keeps_vValid (h : Effect i s t) {r : VReg} (hr : s.vValid r = true) : t.vValid r = true := by
  by_cases hd : i.vDest = some r
  · cases h with
    | wroteV rd x => exact (vValid_writeV s rd r x).trans (by rw [hr, ite_self])
    | stored => exact (vValid_congr (by simp) r).trans hr
    | _ => exact hr
  · exact (effect_frame_v h hd).2.trans hr

/-- No instruction clears the valid bit of a Q register (R112). -/
theorem effect_keeps_qValid (h : Effect i s t) {r : QReg} (hr : s.qValid r = true) : t.qValid r = true := by
  by_cases hd : i.qDest = some r
  · cases h with
    | wroteQ rd pt => exact (qValid_writeQ s rd r pt).trans (by rw [hr, ite_self])
    | stored => exact (qValid_congr (by simp) r).trans hr
    | _ => exact hr
  · exact (effect_frame_q h hd).2.trans hr

/-- STATE, the fault record and IRQ_PENDING are written by HALT and by an exception entry alone (R130, R931). -/
theorem effect_runControl (h : Effect i s t) :
    SameRunControl s t ∨ (i = .halt ∧ t = s.halted) ∨ ∃ e, t = s.raise e (encode i) := by
  cases h with
  | raised e => exact .inr (.inr ⟨e, rfl⟩)
  | ended hi => exact .inr (.inl ⟨hi, rfl⟩)
  | _ => exact .inl (by constructor <;> simp)

theorem effect_keeps_cmd_trail (h : Effect i s t) : t.cmd = s.cmd ∧ t.trail = s.trail := by
  cases h <;> simp

/-- From an index of the command RAM an instruction leads to one, or to 256 by moving on from the last (R131). -/
theorem effect_pcInRange (h : Effect i s t) (hp : s.pc.toNat < 256) : PcInRange t := by
  have hnext : (s.pc + 1#9).toNat ≤ 256 := by rw [BitVec.toNat_add]; simp; omega
  cases h with
  | jumped target => have := target.isLt; simp [PcInRange]; omega
  | raised | ended => exact hp.le
  | stored => simpa [PcInRange] using hnext
  | _ => exact hnext

/-- A slot lies inside the data RAM (R311), so a store keeps the canonical form. -/
theorem effect_ramsCanonical (h : Effect i s t) (hw : RamsCanonical s) : RamsCanonical t := by
  obtain ⟨hdata, hcmd⟩ := hw
  refine ⟨?_, (effect_keeps_cmd_trail h).1 ▸ hcmd⟩
  cases h with
  | stored slot x =>
    have hin : slotAddr slot + (bytesBe x).length ≤ 4096 := by
      have := slot.isLt
      rw [bytesBe_length, slotAddr]; omega
    rw [advance_data]
    exact memory_wf_memWrite _ s _ hin hdata
  | _ => exact hdata

end Frames

/-- Settles O36, from the two register frames of `Effect`. -/
theorem frameOfRegisters : Obligations.FrameOfRegisters := by
  intro i s t h
  exact ⟨fun _ => effect_frame_v (effect_of_exec h), fun _ => effect_frame_q (effect_of_exec h)⟩

/-- Settles O39, from `effect_runControl`. -/
theorem frameOfRunControl : Obligations.FrameOfRunControl :=
  fun _ _ _ h => effect_runControl (effect_of_exec h)

end Sys2Proof.StateRules

/-! ## What a step changes (10_state R130 to R133; 70_reset R1000, R1001) -/

namespace Sys2Proof.StateRules

open Sys2Proof.Machine Sys2Proof.Laws

/-- What both resets leave of the registers, of STATE and of the run's record (R180, R1001). -/
structure AtReset (t : State) : Prop where
  registers : SameRegisters State.reset t
  runControl : SameRunControl State.reset t
  f : t.f = false
  pc : t.pc = 0#9
  trail : t.trail = []

theorem atReset_hardReset (s : State) : AtReset s.hardReset :=
  ⟨⟨rfl, rfl, rfl, rfl, rfl, rfl⟩, ⟨rfl, rfl, rfl, rfl, rfl⟩, rfl, rfl, rfl⟩

theorem atReset_softReset (s : State) (r : Option Response) : AtReset { s.softReset with resp := r } :=
  ⟨⟨rfl, rfl, rfl, rfl, rfl, rfl⟩, ⟨rfl, rfl, rfl, rfl, rfl⟩, rfl, rfl, rfl⟩

/-! ### Host transactions -/

theorem ctrlWrite_isReset (d : CmdWord) : (Move.bus (.write 0x004#14 .four d)).isReset = d.getLsbD 2 := by
  simp [Move.isReset]

theorem write_isReset_of_ne {off : BitVec 14} (h : off.toNat ≠ 0x004) (size : AccessSize) (d : CmdWord) :
    (Move.bus (.write off size d)).isReset = false := by
  have hne : off ≠ 0x004#14 := by rintro rfl; exact h rfl
  simp [Move.isReset, hne]

/-- The only transaction that changes a register an instruction computes with is the soft reset (R103, R1001). -/
theorem hostEffect_registers {s t : State} {x : Transaction} (h : HostEffect s x t) :
    ((Move.bus x).isReset = true ∧ AtReset t) ∨ ((Move.bus x).isReset = false ∧ SameRegisters s t) := by
  cases h with
  | answered x r hx => exact .inr ⟨hx, ⟨rfl, rfl, rfl, rfl, rfl, rfl⟩⟩
  | softReset d hd => exact .inl ⟨by rw [ctrlWrite_isReset, hd], atReset_softReset s _⟩
  | go d h2 | ie d h2 => exact .inr ⟨by rw [ctrlWrite_isReset, h2], ⟨rfl, rfl, rfl, rfl, rfl, rfl⟩⟩
  | command off i d _ _ hoff =>
    exact .inr ⟨write_isReset_of_ne (by omega) _ _, ⟨rfl, rfl, rfl, rfl, rfl, rfl⟩⟩
  | data off j d _ _ hoff =>
    exact .inr ⟨write_isReset_of_ne (by omega) _ _, by constructor <;> simp⟩
  | readPc | irqCleared | startPc => exact .inr ⟨rfl, ⟨rfl, rfl, rfl, rfl, rfl, rfl⟩⟩

/-! ### The registers over a step -/

/-- A step changes the registers by a reset, or by the effect of the instruction it runs. -/
theorem registers_of_step {s t : State} (h : step s = .next t) :
    (s.nextMove.isReset = true ∧ AtReset t) ∨ (s.nextMove.isReset = false ∧ SameRegisters s t) ∨
      (s.nextMove = .core ∧ s.runState = .busy ∧
        ∃ i u, decode (s.cmdWord s.pc.toNat) = .ok i ∧ Effect i s.popMove u ∧ SameRegisters u t) := by
  cases effect_of_step h with
  | hardReset hm => exact .inl ⟨by rw [hm]; rfl, atReset_hardReset _⟩
  | host x t hm he =>
    rw [hm]
    rcases hostEffect_registers he with hr | ⟨hr, hv, hvv, hq, hqv, hmod, hmv⟩
    · exact .inl hr
    · exact .inr (.inl ⟨hr, hv, hvv, hq, hqv, hmod, hmv⟩)
  | rested hm => exact .inr (.inl ⟨by rw [hm]; rfl, ⟨rfl, rfl, rfl, rfl, rfl, rfl⟩⟩)
  | fetchFault hm | illegal _ hm => exact .inr (.inl ⟨by rw [hm]; rfl, by constructor <;> simp⟩)
  | executed i u hm hb _ hd hx =>
    exact .inr (.inr ⟨hm, hb, i, u, hd, effect_of_exec hx, by constructor <;> simp⟩)

theorem atReset_of_step {s t : State} (h : step s = .next t) (hr : s.nextMove.isReset = true) : AtReset t := by
  rcases registers_of_step h with ⟨-, ht⟩ | ⟨hn, -⟩ | ⟨hm, -⟩
  · exact ht
  · rw [hr] at hn; cases hn
  · rw [hm] at hr; cases hr

/-- No move but a core turn or a reset touches the registers (R103). -/
theorem sameRegisters_of_step {s t : State} (h : step s = .next t) (hr : s.nextMove.isReset = false)
    (hc : s.nextMove ≠ .core) : SameRegisters s t := by
  rcases registers_of_step h with ⟨hn, -⟩ | ⟨-, hs⟩ | ⟨hm, -⟩
  · rw [hr] at hn; cases hn
  · exact hs
  · exact absurd hm hc

/-! ### STATE, pc and F over a step -/

/-- The ways a step can move STATE, pc and F (R130, R132, R133, R125). -/
inductive Flow (s t : State) : Prop where
  /-- a reset -/
  | reset (hm : s.nextMove.isReset = true) (ht : AtReset t)
  /-- GO outside a run -/
  | started (d : CmdWord) (hm : s.nextMove.isCtrlWrite d) (h0 : d.getLsbD 0 = true) (h2 : d.getLsbD 2 = false)
      (hs : t.runState = .busy) (hf : t.f = false)
  /-- another move than a core turn of a run -/
  | kept (hm : s.nextMove = .core → s.runState ≠ .busy) (hs : t.runState = s.runState) (hpc : t.pc = s.pc)
  /-- a core turn after which the run goes on -/
  | wentOn (hb : s.runState = .busy) (hs : t.runState = .busy)
  /-- HALT -/
  | halted (hm : s.nextMove = .core) (hb : s.runState = .busy) (hd : decode (s.cmdWord s.pc.toNat) = .ok .halt)
      (hs : t.runState = .done) (hpc : t.pc = s.pc)
  /-- an exception -/
  | raised (hm : s.nextMove = .core) (hb : s.runState = .busy) (hs : t.runState = .fault) (hpc : t.pc = s.pc)
      (hfp : t.faultPc = s.pc)

theorem flow_of_hostEffect {s t : State} {x : Transaction} (hm : s.nextMove = .bus x)
    (h : HostEffect s.popMove x t) : Flow s t := by
  have hc : s.nextMove = .core → s.runState ≠ .busy := by rw [hm]; intro hn; cases hn
  cases h with
  | softReset d hd => exact .reset (by rw [hm, ctrlWrite_isReset, hd]) (atReset_softReset _ _)
  | go d h2 h0 => exact .started d hm h0 h2 rfl rfl
  | data => exact .kept hc (by simp) (by simp)
  | _ => exact .kept hc rfl rfl

/-- The inversion of `step` for STATE, pc and F. -/
theorem flow_of_step {s t : State} (h : step s = .next t) : Flow s t := by
  cases effect_of_step h with
  | hardReset hm => exact .reset (by rw [hm]; rfl) (atReset_hardReset _)
  | host x t hm he => exact flow_of_hostEffect hm he
  | rested hm hb => exact .kept (fun _ => hb) rfl rfl
  | fetchFault hm hb | illegal _ hm hb => exact .raised hm hb (by simp) (by simp) (by simp)
  | executed i u hm hb _ hd hx =>
    rcases effect_runControl (effect_of_exec hx) with hsame | ⟨rfl, rfl⟩ | ⟨e, rfl⟩
    · exact .wentOn hb (by rw [noteReached_runState, hsame.runState, popMove_runState, hb])
    · exact .halted hm hb hd (by simp) (by simp)
    · exact .raised hm hb (by simp) (by simp) (by simp)

/-- Settles O8, from `flow_of_step`. -/
theorem wherePcStands : Obligations.WherePcStands := by
  refine ⟨fun s t hm hb h hd => ?_, fun s t hm hb h hf => ?_, fun s t hb h hpc => ?_⟩
  · cases flow_of_step h with
    | reset hr => rw [hm] at hr; cases hr
    | started _ _ _ _ hs | wentOn _ hs | raised _ _ hs => rw [hd] at hs; cases hs
    | kept hk => exact absurd hb (hk hm)
    | halted _ _ _ _ hpc => exact hpc
  · cases flow_of_step h with
    | reset hr => rw [hm] at hr; cases hr
    | started _ _ _ _ hs | wentOn _ hs | halted _ _ _ hs => rw [hf] at hs; cases hs
    | kept hk => exact absurd hb (hk hm)
    | raised _ _ _ hpc hfp => exact ⟨hpc, hfp⟩
  · cases flow_of_step h with
    | reset hr => exact .inl hr
    | started d hm h0 _ hs => exact .inr ⟨hs, d, hm, h0⟩
    | kept _ _ hk => exact absurd hk hpc
    | wentOn hb' | halted _ hb' | raised _ hb' => exact absurd hb' hb

/-- Settles O9, from `flow_of_step`. -/
theorem runStateTransitions : Obligations.RunStateTransitions := by
  intro s t h hne
  cases flow_of_step h with
  | reset hr ht => exact .inr (.inr (.inr ⟨ht.runControl.runState, hr⟩))
  | started d hm h0 h2 hs => exact .inl ⟨hs, d, hm, h0, h2⟩
  | kept _ hs => exact absurd hs hne
  | wentOn hb hs => exact absurd (hs.trans hb.symm) hne
  | halted hm hb hd hs => exact .inr (.inl ⟨hb, hs, hm, hd⟩)
  | raised hm hb hs => exact .inr (.inr (.inl ⟨hb, hs, hm⟩))

end Sys2Proof.StateRules

/-! ## The invariants (10_state R111, R130, R131, R133) -/

namespace Sys2Proof.StateRules

open Sys2Proof.Machine Sys2Proof.Laws

/-! ### The control invariant -/

/-- The state a reset leaves, with RAMs in canonical form, meets the control invariant. -/
theorem controlInv_of_atReset {t : State} (h : AtReset t) (hw : RamsCanonical t) : ControlInv t where
  pcInRange := by simp [PcInRange, h.pc]
  ramsCanonical := hw
  faultRecord := by
    simp [FaultRecordCoherent, h.runControl.runState, h.runControl.cause, h.runControl.faultPc,
      h.runControl.faultInstr, State.reset]
  idle _ := ⟨h.registers.validV, h.registers.validP, h.registers.validM, h.f, h.pc, h.runControl.irqPending⟩
  trail := by simp [TrailCoherent, h.runControl.runState, h.trail, State.reset]

theorem controlInv_popMove {s : State} (h : ControlInv s) : ControlInv s.popMove :=
  ⟨h.pcInRange, h.ramsCanonical, h.faultRecord, h.idle, h.trail⟩

/-- In a run nothing is recorded as the last fault. -/
theorem faultRecord_busy_iff {s : State} (hb : s.runState = .busy) :
    FaultRecordCoherent s ↔ s.cause = 0#4 ∧ s.faultPc = 0#9 ∧ s.faultInstr = 0#32 := by
  simp [FaultRecordCoherent, hb]

theorem trailCoherent_busy_iff {s : State} (hb : s.runState = .busy) :
    TrailCoherent s ↔ s.trail.head? = some s.pc ∧ ∀ p ∈ s.trail, p.toNat ≤ 256 := by
  simp [TrailCoherent, hb]

/-- After a core turn the record of reached indices is coherent whatever the turn did to STATE. -/
theorem trailCoherent_noteReached {u : State} (hp : PcInRange u) (htr : ∀ p ∈ u.trail, p.toNat ≤ 256) :
    TrailCoherent u.noteReached := by
  by_cases hb : u.runState = .busy
  · simp only [TrailCoherent, noteReached_runState, noteReached_trail, noteReached_pc, hb, if_true]
    exact ⟨rfl, List.forall_mem_cons.2 ⟨hp, htr⟩⟩
  · simp [TrailCoherent, noteReached_trail, hb]

theorem exc_code_range (e : Exc) : 1 ≤ e.code.toNat ∧ e.code.toNat ≤ 8 := by
  cases e <;> decide

section Run

variable {s : State} (hs : ControlInv s) (hb : s.runState = .busy)
include hs hb

theorem trail_le_of_controlInv : ∀ p ∈ s.trail, p.toNat ≤ 256 := ((trailCoherent_busy_iff hb).1 hs.trail).2

/-- An exception entry in a run keeps the control invariant (R133, R920). -/
theorem controlInv_raise (e : Exc) (w : CmdWord) : ControlInv (s.raise e w).noteReached where
  pcInRange := by simpa [PcInRange] using hs.pcInRange
  ramsCanonical := by simpa [RamsCanonical] using hs.ramsCanonical
  faultRecord := by simpa [FaultRecordCoherent] using exc_code_range e
  idle h := by simp at h
  trail := trailCoherent_noteReached hs.pcInRange (trail_le_of_controlInv (s := s) hs hb)

/-- HALT in a run keeps the control invariant (R133, R801). -/
theorem controlInv_halted : ControlInv s.halted.noteReached where
  pcInRange := by simpa [PcInRange] using hs.pcInRange
  ramsCanonical := by simpa [RamsCanonical] using hs.ramsCanonical
  faultRecord := by simpa [FaultRecordCoherent] using (faultRecord_busy_iff hb).1 hs.faultRecord
  idle h := by simp at h
  trail := trailCoherent_noteReached hs.pcInRange (trail_le_of_controlInv (s := s) hs hb)

/-- An instruction of a run keeps the control invariant. -/
theorem controlInv_effect {i : Instr} {u : State} (hp : s.pc.toNat < 256) (h : Effect i s u) :
    ControlInv u.noteReached := by
  rcases effect_runControl h with hsame | ⟨-, rfl⟩ | ⟨e, rfl⟩
  · have hub : u.runState = .busy := hsame.runState.trans hb
    have hpc : PcInRange u := effect_pcInRange h hp
    have hrec : FaultRecordCoherent u := by
      rw [faultRecord_busy_iff hub, hsame.cause, hsame.faultPc, hsame.faultInstr]
      exact (faultRecord_busy_iff hb).1 hs.faultRecord
    have htr : ∀ p ∈ u.trail, p.toNat ≤ 256 :=
      (effect_keeps_cmd_trail h).2 ▸ trail_le_of_controlInv hs hb
    exact
      { pcInRange := by simpa [PcInRange] using hpc
        ramsCanonical := by simpa [RamsCanonical] using effect_ramsCanonical h hs.ramsCanonical
        faultRecord := by simpa [FaultRecordCoherent] using hrec
        idle := fun hi => by simp [hub] at hi
        trail := trailCoherent_noteReached hpc htr }
  · exact controlInv_halted hs hb
  · exact controlInv_raise hs hb e _

end Run

/-- GO meets the control invariant with the RAMs as they are (R151). -/
theorem controlInv_go {s : State} (hw : RamsCanonical s) (ie : Bool) (r : Option Response) :
    ControlInv { s.go with ie := ie, resp := r } := by
  have hpc : (s.startPc.setWidth 9).toNat ≤ 256 := by
    have := s.startPc.isLt
    rw [BitVec.toNat_setWidth]; omega
  exact ⟨hpc, hw, ⟨rfl, rfl, rfl⟩, fun h => by simp at h,
    ⟨rfl, fun p hp => by rw [List.mem_singleton.1 hp]; exact hpc⟩⟩

/-- The oldest entries of a coherent trail may be forgotten: it still begins with pc. -/
theorem trailCoherent_take {s : State} (h : TrailCoherent s) (hb : s.runState = .busy) (k : Nat) :
    (s.trail.take (k + 1)).head? = some s.pc ∧ ∀ p ∈ s.trail.take (k + 1), p.toNat ≤ 256 := by
  obtain ⟨hhead, hall⟩ := (trailCoherent_busy_iff hb).1 h
  exact ⟨by rw [List.head?_take, if_neg k.succ_ne_zero, hhead], fun p hp => hall p (List.mem_of_mem_take hp)⟩

/-- A host transaction keeps the control invariant. -/
theorem controlInv_hostEffect {s t : State} {x : Transaction} (hs : ControlInv s) (h : HostEffect s x t) :
    ControlInv t := by
  obtain ⟨hpc, hw, hrec, hidle, htr⟩ := hs
  cases h with
  | answered | ie | startPc => exact ⟨hpc, hw, hrec, hidle, htr⟩
  | readPc p tr hb hk =>
    have htr' : tr.head? = some s.pc ∧ ∀ q ∈ tr, q.toNat ≤ 256 := by
      obtain ⟨k, rfl | rfl⟩ := hk
      · exact trailCoherent_take htr hb k
      · exact (trailCoherent_busy_iff hb).1 htr
    exact ⟨hpc, hw, hrec, hidle, (if_pos hb).mpr htr'⟩
  | softReset d => exact controlInv_of_atReset (atReset_softReset s _) hw
  | go d => exact controlInv_go hw _ _
  | irqCleared d =>
    refine ⟨hpc, hw, hrec, fun hi => ?_, htr⟩
    obtain ⟨hv, hq, hm, hf, hpc0, -⟩ := hidle hi
    exact ⟨hv, hq, hm, hf, hpc0, rfl⟩
  | command off i d hb hi => exact ⟨hpc, ⟨hw.1, ram_wf_set _ i d hi hw.2⟩, hrec, hidle, htr⟩
  | data off j d hb hj =>
    have hdata : Memory.wf (s.setDataWord j d).data = true :=
      memory_wf_memWrite _ s _ (by rw [beBytes_length]; omega) hw.1
    exact
      { pcInRange := by simpa [PcInRange] using hpc
        ramsCanonical := ⟨hdata, by simpa using hw.2⟩
        faultRecord := by simpa [FaultRecordCoherent] using hrec
        idle := by simpa [IdleIsReset] using hidle
        trail := by simpa [TrailCoherent] using htr }

/-- Settles O59: each way a step can end keeps the control invariant. -/
theorem stepKeepsControlInv : Obligations.StepKeepsControlInv := by
  intro s t hs h
  have hpop := controlInv_popMove hs
  cases effect_of_step h with
  | hardReset => exact controlInv_of_atReset (atReset_hardReset _) ⟨memory_wf_reset, cmdRam_wf_reset⟩
  | host x t _ he => exact controlInv_hostEffect hpop he
  | rested => exact hpop
  | fetchFault _ hb | illegal _ _ hb => exact controlInv_raise hpop hb _ _
  | executed i u _ hb hp _ hx => exact controlInv_effect hpop hb hp (effect_of_exec hx)

/-! ### The points -/

theorem pointsValid_congr {s t : State} (hq : t.q = s.q) (hv : t.validP = s.validP) (h : PointsValid s) :
    PointsValid t := by
  intro r hr
  rw [qReg_congr hq r]
  exact h r ((qValid_congr hv r).symm.trans hr)

theorem pointsValid_of_validP_zero {t : State} (h : t.validP = 0#16) : PointsValid t := by
  intro r hr
  rw [qValid_of_validP_zero h r] at hr
  cases hr

/-- The checks of MKPT are those of a valid point (R500, R510). -/
theorem makePoint_valid {x y : Word} {pt : Point} (h : makePoint x y = .ok pt) : validPt pt = true := by
  unfold makePoint at h
  split at h
  · cases h
  split at h
  · cases h
  · rename_i hrange hcurve
    cases h
    simp only [not_or, not_le, ne_eq, not_not] at hrange hcurve
    simp [validPt, onCurve, hrange, hcurve]

/-- What the instruction computes is written only if no exception is raised, which keeps the points. -/
theorem pointsValid_of_finish {s t : State} {i : Instr} {r : Except Exc State} (hs : PointsValid s)
    (h : s.finish i r = .next t) (hok : r = .ok t → PointsValid t) : PointsValid t := by
  rcases finish_eq_next h with hr | ⟨e, -, rfl⟩
  · exact hok hr
  · exact pointsValid_congr rfl rfl hs

/-- An instruction that writes a Q register writes a valid point when its source points are valid (R111). -/
theorem pointsValid_exec {s t : State} {i : Instr} (hs : PointsValid s) (h : exec i s = .next t) :
    PointsValid t := by
  cases hd : i.qDest with
  | none =>
    obtain ⟨hq, hv⟩ := effect_keeps_qFile (effect_of_exec h) hd
    exact pointsValid_congr hq hv hs
  | some rd =>
    obtain ⟨a, b, hi⟩ := instr_of_qDest hd
    have hwrite {pt : Point} (hpt : validPt pt = true) : PointsValid (s.writeQ rd pt).advance :=
      pointsValid_congr rfl rfl (pointsValid_writeQ hs hpt)
    rcases hi with rfl | rfl | rfl | rfl | rfl | rfl <;> simp only [exec] at h <;>
      refine pointsValid_of_finish hs h fun hr => ?_ <;>
      simp only [except_bind_eq_ok, Except.ok.injEq, pure, Except.pure] at hr
    · obtain ⟨x, -, y, -, pt, hpt, rfl⟩ := hr
      exact hwrite (makePoint_valid hpt)
    · subst hr
      exact hwrite rfl
    · obtain ⟨pt, hpt, rfl⟩ := hr
      exact hwrite (valid_of_readQ hs hpt)
    · obtain ⟨p, hp, q, hq, _, -, _, -, rfl⟩ := hr
      exact hwrite (pointAdd_valid (valid_of_readQ hs hp) (valid_of_readQ hs hq))
    · obtain ⟨p, hp, _, -, rfl⟩ := hr
      exact hwrite (pointDouble_valid (valid_of_readQ hs hp))
    · obtain ⟨p, hp, k, -, _, -, rfl⟩ := hr
      exact hwrite (scalarMul_valid (valid_of_readQ hs hp))

/-- Every step keeps the points valid: a reset leaves none, the host touches none, an instruction writes valid ones. -/
theorem pointsValid_step {s t : State} (hs : PointsValid s) (h : step s = .next t) : PointsValid t := by
  cases effect_of_step h with
  | hardReset => exact pointsValid_of_validP_zero rfl
  | host x t _ he =>
    rcases hostEffect_registers he with ⟨-, ht⟩ | ⟨-, hsame⟩
    · exact pointsValid_of_validP_zero ht.registers.validP
    · exact pointsValid_congr hsame.q hsame.validP hs
  | rested => exact pointsValid_congr rfl rfl hs
  | fetchFault | illegal => exact pointsValid_congr (by simp) (by simp) hs
  | executed i u _ _ _ _ hx =>
    have hpop : PointsValid s.popMove := pointsValid_congr rfl rfl hs
    have hu : PointsValid u := pointsValid_exec hpop hx
    exact pointsValid_congr (by simp) (by simp) hu

/-- Settles O60, from `pointsValid_step`; an instruction that writes no Q register keeps the file and its valid bits. -/
theorem pointsStayOnCurve : Obligations.PointsStayOnCurve := by
  refine ⟨fun _ _ => pointsValid_step, pointsValid_of_validP_zero rfl, fun i s t h hne => ?_⟩
  cases hd : i.qDest with
  | none =>
    obtain ⟨hq, hv⟩ := effect_keeps_qFile (effect_of_exec h) hd
    exact hne.elim (absurd hq) (absurd hv)
  | some rd => exact ⟨rd, instr_of_qDest hd⟩

/-- Settles O58: the reset state is what a reset leaves, whatever moves are to come. -/
theorem resetMeetsInvariants : Obligations.ResetMeetsInvariants := by
  intro ms st
  refine ⟨controlInv_of_atReset ?_ ⟨memory_wf_reset, cmdRam_wf_reset⟩, pointsValid_of_validP_zero rfl⟩
  exact ⟨⟨rfl, rfl, rfl, rfl, rfl, rfl⟩, ⟨rfl, rfl, rfl, rfl, rfl⟩, rfl, rfl, rfl⟩

end Sys2Proof.StateRules

/-! ## F, M and the valid bits (10_state R102, R103, R112, R121, R125) -/

namespace Sys2Proof.StateRules

open Sys2Proof.Machine Sys2Proof.Laws

/-! ### The words of the register block, bit by bit -/

theorem getLsbD_bitAt (b : Bool) {i : Nat} (hi : i < 32) (j : Nat) :
    (bitAt b i).getLsbD j = (b && decide (i = j)) := by
  cases b <;> simp [bitAt, hi]

theorem statusWord_bit_f (s : State) : s.statusWord.getLsbD 2 = s.f := by
  have hcode : (s.runState.code.setWidth 32).getLsbD 2 = false := by cases s.runState <;> rfl
  simp only [State.statusWord, BitVec.getLsbD_or, hcode, getLsbD_bitAt _ (show 2 < 32 by decide),
    getLsbD_bitAt _ (show 3 < 32 by decide), Bool.false_or]
  simp

theorem getLsbD_validVWord (s : State) {j : Nat} (hj : j < 32) :
    s.validVWord.getLsbD j = (s.validV.getLsbD j || (s.validM && decide (16 = j))) := by
  rw [State.validVWord, BitVec.getLsbD_or, BitVec.getLsbD_setWidth, getLsbD_bitAt _ (by decide), decide_eq_true hj,
    Bool.true_and]

theorem validVWord_bit_validM (s : State) : s.validVWord.getLsbD 16 = s.validM := by
  rw [getLsbD_validVWord s (by decide), BitVec.getLsbD_of_ge s.validV 16 le_rfl, Bool.false_or, decide_eq_true rfl,
    Bool.and_true]

theorem validVWord_bit_vValid (s : State) (r : VReg) : s.validVWord.getLsbD r.toNat = s.vValid r := by
  have hr := r.isLt
  have hne : (16 : Nat) ≠ r.toNat := by omega
  rw [getLsbD_validVWord s (by omega), decide_eq_false hne, Bool.and_false, Bool.or_false, State.vValid]

theorem validPWord_bit_qValid (s : State) (r : QReg) : (s.windowWord 0x024).getLsbD r.toNat = s.qValid r := by
  have h32 : r.toNat < 32 := by have := r.isLt; omega
  simp [State.windowWord, State.registerWord, State.qValid, h32]

/-! ### What a core turn keeps -/

/-- A step that changes M or VALID_M is a reset or runs an SETM (R121). -/
theorem step_changes_m {s t : State} (h : step s = .next t) (hne : t.m ≠ s.m ∨ t.validM ≠ s.validM) :
    s.nextMove.isReset = true ∨
      (s.nextMove = .core ∧ s.runState = .busy ∧ ∃ rs1, decode (s.cmdWord s.pc.toNat) = .ok (.setm rs1)) := by
  rcases registers_of_step h with ⟨hr, -⟩ | ⟨-, hs⟩ | ⟨hm, hb, i, u, hd, hu, hsame⟩
  · exact .inl hr
  · exact hne.elim (absurd hs.m) (absurd hs.validM)
  · cases hw : i.writesM with
    | true =>
      obtain ⟨rs1, rfl⟩ := instr_of_writesM hw
      exact .inr ⟨hm, hb, rs1, hd⟩
    | false =>
      obtain ⟨hum, huv⟩ := effect_keeps_m hu hw
      exact hne.elim (absurd (hsame.m.trans hum)) (absurd (hsame.validM.trans huv))

/-- A step that clears the valid bit of a V register is a reset (R102). -/
theorem step_clears_vValid {s t : State} {r : VReg} (h : step s = .next t) (hv : s.vValid r = true)
    (ht : t.vValid r = false) : s.nextMove.isReset = true := by
  rcases registers_of_step h with ⟨hr, -⟩ | ⟨-, hs⟩ | ⟨-, -, i, u, -, hu, hsame⟩
  · exact hr
  · rw [vValid_congr hs.validV, hv] at ht; cases ht
  · rw [vValid_congr hsame.validV, effect_keeps_vValid hu hv] at ht; cases ht

/-- A step that clears the valid bit of a Q register is a reset (R112). -/
theorem step_clears_qValid {s t : State} {r : QReg} (h : step s = .next t) (hv : s.qValid r = true)
    (ht : t.qValid r = false) : s.nextMove.isReset = true := by
  rcases registers_of_step h with ⟨hr, -⟩ | ⟨-, hs⟩ | ⟨-, -, i, u, -, hu, hsame⟩
  · exact hr
  · rw [qValid_congr hs.validP, hv] at ht; cases ht
  · rw [qValid_congr hsame.validP, effect_keeps_qValid hu hv] at ht; cases ht

/-! ### The obligations -/

/-- Settles O40, from `effect_keeps_f` and `flow_of_step`. -/
theorem onlyComparesWriteF : Obligations.OnlyComparesWriteF := by
  refine ⟨fun _ _ _ h => effect_keeps_f (effect_of_exec h), fun s t h hb ht => ?_, rfl,
    fun _ _ h hr => (atReset_of_step h hr).f, statusWord_bit_f⟩
  cases flow_of_step h with
  | reset _ hr => rw [hr.runControl.runState] at ht; cases ht
  | started _ _ _ _ _ hf => exact hf
  | kept _ hs => exact absurd (hs.symm.trans ht) hb
  | wentOn hb' | halted _ hb' | raised _ hb' => exact absurd hb' hb

/-- Settles O41, from `atReset_of_step` and `step_changes_m`. -/
theorem modulusRegister : Obligations.ModulusRegister := by
  refine ⟨rfl, fun _ _ h hr => (atReset_of_step h hr).registers.validM, fun rs1 s hv => ?_,
    fun _ => readM_of_invalid, fun _ _ _ h => effect_keeps_m (effect_of_exec h), fun _ _ => step_changes_m,
    validVWord_bit_validM⟩
  refine ⟨(s.writeM (s.vReg rs1)).advance, ?_, rfl, rfl⟩
  simp [exec, execSetm, readV_of_valid hv]

/-- Settles O42: after a reset no bit is set, a write sets its own, and only a reset clears one. -/
theorem validBitsOfV : Obligations.ValidBitsOfV := by
  refine ⟨vValid_of_validV_zero rfl, fun s r x => ?_, fun s t r h hr hc => ?_, fun _ _ _ => step_clears_vValid,
    fun _ _ h hr => vValid_of_validV_zero (atReset_of_step h hr).registers.validV, fun _ _ => readV_of_invalid,
    validVWord_bit_vValid⟩
  · exact readV_eq_ok.2 ⟨(vValid_writeV s r r x).trans (if_pos rfl), (vReg_writeV s r r x).trans (if_pos rfl)⟩
  · have hsame := sameRegisters_of_step h hr hc
    exact ⟨vReg_congr hsame.v r, vValid_congr hsame.validV r⟩

/-- Settles O43: after a reset no bit is set, a write sets its own, and only a reset clears one. -/
theorem validBitsOfQ : Obligations.ValidBitsOfQ := by
  refine ⟨qValid_of_validP_zero rfl,
    fun _ _ h hr => qValid_of_validP_zero (atReset_of_step h hr).registers.validP, fun s r pt => ?_,
    fun _ _ => readQ_of_invalid, fun s t r h hr hc => ?_, fun _ _ _ => step_clears_qValid,
    validPWord_bit_qValid⟩
  · exact readQ_eq_ok.2 ⟨(qValid_writeQ s r r pt).trans (if_pos rfl), (qReg_writeQ s r r pt).trans (if_pos rfl)⟩
  · have hsame := sameRegisters_of_step h hr hc
    exact ⟨qReg_congr hsame.q r, qValid_congr hsame.validP r⟩

end Sys2Proof.StateRules

/-! ## The cycle and the host's view (10_state R132, R140, R150 to R160, R180) -/

namespace Sys2Proof.StateRules

open Sys2Proof.Machine Sys2Proof.Laws

/-! ### The step, agent by agent -/

/-- A core turn of a run below 256 settles what the fetched word does (R132). -/
theorem step_of_fetch {s : State} (hm : s.nextMove = .core) (hb : s.runState = .busy) (hp : s.pc.toNat < 256) :
    step s = settle (s.popMove.runWord (s.cmdWord s.pc.toNat)) := by
  have hnot : ¬ s.popMove.runState ≠ .busy := not_not.2 hb
  have hfetch : ¬ 256 ≤ s.popMove.pc.toNat := not_le.2 hp
  rw [step, hm]
  exact (if_neg hnot).trans (if_neg hfetch)

theorem runWord_of_decode {s : State} {w : CmdWord} {i : Instr} (h : decode w = .ok i) :
    s.runWord w = exec i s := by
  simp only [State.runWord, h]

theorem noteReached_eq (s : State) :
    s.noteReached = { s with trail := if s.runState = .busy then s.pc :: s.trail else [] } := by
  unfold State.noteReached; split <;> rfl

theorem step_of_core_rest {s : State} (hm : s.nextMove = .core) (hb : s.runState ≠ .busy) :
    step s = .next s.popMove := by
  rw [step, hm]
  exact if_pos hb

theorem step_of_bus {s : State} {x : Transaction} (hm : s.nextMove = .bus x) :
    step s = .next (s.popMove.transact x) := by
  rw [step, hm]; rfl

theorem pending_of_schedule {s : State} {mv : Move} {ms : List Move} (h : s.schedule = mv :: ms) :
    s.pending = (mv :: ms, s.stream) := by
  simp only [State.pending, h]

theorem pending_of_stream {s : State} {k : Nat} (h : s.schedule = []) (hk : s.stream = some k) :
    s.pending = (Config.hostMoves k ++ [.core], some (k + 1)) := by
  simp only [State.pending, h, hk]

theorem pending_of_silence {s : State} (h : s.schedule = []) (hk : s.stream = none) :
    s.pending = ([.core], none) := by
  simp only [State.pending, h, hk]

theorem moves_of_pending {s : State} {mv : Move} {ms : List Move} {st : Option Nat}
    (h : s.pending = (mv :: ms, st)) : s.nextMove = mv ∧ s.popMove = { s with schedule := ms, stream := st } := by
  simp [State.nextMove, State.popMove, h]

/-- Settles O5: the cycle by cases of the agent whose turn it is, the moves by `moves_of_pending`. -/
theorem stepRunsDecodedInstruction : Obligations.StepRunsDecodedInstruction := by
  refine ⟨fun s i hm hb hp hd => ?_, fun _ => step_of_core_rest, fun _ _ => step_of_bus,
    fun s mv ms h => moves_of_pending (pending_of_schedule h), fun s k h hk => ?_, fun s h hk => ?_⟩
  · rw [step_of_fetch hm hb hp, runWord_of_decode hd]
    cases exec i s.popMove with
    | next t => exact congrArg _ (noteReached_eq t)
    | fault | refused => rfl
  · obtain ⟨mv, ms, hcons⟩ := List.exists_cons_of_ne_nil (pending_ne_nil s)
    have hlist : Config.hostMoves k ++ [.core] = mv :: ms := by rw [← hcons, pending_of_stream h hk]
    exact ⟨mv, ms, hlist, moves_of_pending ((pending_of_stream h hk).trans (by rw [hlist]))⟩
  · obtain ⟨hnext, hpop⟩ := moves_of_pending (pending_of_silence h hk)
    exact ⟨hnext, by rw [hpop, ← h, ← hk]⟩

/-- Settles O48, by evaluating the reset state; a core turn there is one outside a run. -/
theorem resetValues : Obligations.ResetValues := by
  have hturn : step State.reset = .next State.reset := step_of_core_rest rfl (by decide)
  exact ⟨fun r => readV_of_invalid (vValid_of_validV_zero rfl r),
    fun r => readQ_of_invalid (qValid_of_validP_zero rfl r), readM_of_invalid rfl,
    rfl, rfl, rfl, rfl, rfl, rfl, rfl, rfl, rfl, rfl, rfl, rfl, rfl, fun _ => rfl, fun _ => rfl,
    rfl, rfl, rfl, rfl, rfl, rfl, hturn⟩

/-! ### Writes of the register block -/

theorem transact_ctrlWrite (s : State) (d : CmdWord) :
    s.transact (.write 0x004#14 .four d) = { s.writeCtrl d with resp := some ⟨0#32, false⟩ } :=
  transact_write s d rfl

theorem transact_startPcWrite (s : State) (d : CmdWord) :
    s.transact (.write 0x018#14 .four d) = { s.writeWindow 0x018 d with resp := some ⟨0#32, false⟩ } :=
  transact_write s d rfl

theorem writeCtrl_reset (s : State) {d : CmdWord} (h2 : d.getLsbD 2 = true) :
    s.writeCtrl d = s.softReset := if_pos h2

theorem writeCtrl_go (s : State) {d : CmdWord} (h2 : d.getLsbD 2 = false) (h0 : d.getLsbD 0 = true)
    (hb : s.runState ≠ .busy) : s.writeCtrl d = { s.go with ie := d.getLsbD 1 } := by
  simp only [State.writeCtrl, h2, Bool.false_eq_true, if_false]
  exact if_pos ⟨h0, hb⟩

theorem writeCtrl_ie (s : State) {d : CmdWord} (h2 : d.getLsbD 2 = false)
    (h : d.getLsbD 0 = false ∨ s.runState = .busy) : s.writeCtrl d = { s with ie := d.getLsbD 1 } := by
  have hgo : ¬ (d.getLsbD 0 = true ∧ s.runState ≠ .busy) := by
    rintro ⟨h0, hb⟩
    rcases h with h | h
    · rw [h0] at h; cases h
    · exact hb h
  simp only [State.writeCtrl, h2, Bool.false_eq_true, if_false]
  exact if_neg hgo

theorem writeWindow_startPc (s : State) (d : CmdWord) (hb : s.runState ≠ .busy) :
    s.writeWindow 0x018 d = { s with startPc := d.setWidth 8 } := by
  simp [State.writeWindow, hb]

/-- Offsets where no write has an effect in any STATE: the read-only registers and the reserved ranges (R160, R210). -/
theorem writeWindow_readOnly (s : State) {off : Nat} (d : CmdWord)
    (h : (off < 0x1000 ∧ off ≠ 0x004 ∧ off ≠ 0x008 ∧ off ≠ 0x018) ∨ (0x1400 ≤ off ∧ off < 0x2000) ∨ 0x3000 ≤ off) :
    s.writeWindow off d = s := by
  unfold State.writeWindow
  rw [if_neg (by omega), if_neg (by omega)]
  split
  · rfl
  · rw [if_neg (by omega), if_neg (by omega), if_neg (by omega)]

theorem ctrlWord_eq (s : State) : s.ctrlWord = if s.ie = true then 2#32 else 0#32 := rfl

/-- Settles O50: a CTRL write by its bits 2 and 0 and STATE, every other write by its offset. -/
theorem controlRegister : Obligations.ControlRegister := by
  refine ⟨fun s d h2 h0 hb => ?_, fun s d h2 h => ?_, fun s d h2 => ?_, ctrlWord_eq, rfl, fun s d hb => ?_,
    fun s off d h4 h => ?_⟩
  · rw [transact_ctrlWrite, writeCtrl_go s h2 h0 hb]; rfl
  · rw [transact_ctrlWrite, writeCtrl_ie s h2 h]
  · rw [transact_ctrlWrite, writeCtrl_reset s h2]; rfl
  · have hlow : d.setWidth 8 = BitVec.ofNat 8 (d.toNat % 256) := by
      apply BitVec.eq_of_toNat_eq; simp
    rw [transact_startPcWrite, writeWindow_startPc s d hb, hlow]
  · rw [transact_write s d h4, writeWindow_readOnly s d h]

/-! ### Reads of the window -/

theorem windowWord_reserved (s : State) {off : Nat} (h : (0x1400 ≤ off ∧ off < 0x2000) ∨ 0x3000 ≤ off) :
    s.windowWord off = 0#32 := by
  unfold State.windowWord
  rw [if_neg (by omega), if_neg (by omega)]
  split
  · rfl
  · rw [if_neg (by omega)]

theorem registerWord_reserved (s : State) {off : Nat} (h : 0x028 ≤ off) : s.registerWord off = 0#32 := by
  unfold State.registerWord
  split
  case h_11 => rfl
  all_goals omega

theorem statusWord_toNat (s : State) :
    s.statusWord.toNat =
      (match s.runState with | .idle => 0 | .busy => 1 | .done => 2 | .fault => 3)
        + (if s.f = true then 4 else 0) + (if s.irqPending = true then 8 else 0) := by
  unfold State.statusWord
  cases s.runState <;> cases s.f <;> cases s.irqPending <;> rfl

/-- VALID_M stands above the 16 bits of VALID_V (R158). -/
theorem validVWord_toNat (s : State) :
    s.validVWord.toNat = s.validV.toNat + if s.validM = true then 65536 else 0 := by
  have hlt := s.validV.isLt
  have hmod : s.validV.toNat % 2 ^ 32 = s.validV.toNat := Nat.mod_eq_of_lt (by omega)
  rw [State.validVWord, BitVec.toNat_or, BitVec.toNat_setWidth, hmod]
  cases s.validM with
  | false => exact Nat.or_zero _
  | true => exact (Nat.or_comm _ _).trans ((Nat.two_pow_add_eq_or_of_lt hlt 1).symm.trans (Nat.add_comm _ _))

/-- Settles O51: each register's word by its own lemma, reserved offsets by theirs. -/
theorem registerReads : Obligations.RegisterReads := by
  refine ⟨fun s off hb h4 => ?_, fun s off h4 h => ?_, fun s => ?_⟩
  · rw [transact_read s h4, hostRead_eq s fun hpc => hb hpc.2]
  · rw [transact_read s h4, hostRead_eq s fun hpc => by omega, windowWord_reserved s h]
  · have hreserved : ∀ off, 0x028 ≤ off → off < 0x1000 → s.windowWord off = 0#32 := fun off h h' =>
      (if_pos h').trans (registerWord_reserved s h)
    have hzext {n : Nat} (x : BitVec n) (hn : n ≤ 32) : (x.setWidth 32).toNat = x.toNat :=
      BitVec.toNat_setWidth_of_le hn
    exact ⟨rfl, statusWord_toNat s, hzext s.cause (by decide), hzext s.faultPc (by decide), rfl,
      hzext s.startPc (by decide), hzext s.pc (by decide), validVWord_toNat s, hzext s.validP (by decide), hreserved⟩

/-! ### PC during a run -/

theorem pcChoice_lt {s : State} (h : s.trail ≠ []) : s.pcChoice < s.trail.length :=
  Nat.mod_lt _ (List.length_pos_iff.2 h)

theorem drawPc_of_entry {s : State} {p : BitVec 9} (h : s.trail[s.pcChoice]? = some p) :
    s.drawPc = (p, { s with trail := s.trail.take (s.pcChoice + 1), draws := s.draws + 1 }) := by
  simp only [State.drawPc, h]

theorem transact_pcRead {s : State} (hb : s.runState = .busy) :
    s.transact (.read 0x01C#14 .four) =
      { s.drawPc.2 with resp := some ⟨s.drawPc.1.setWidth 32, false⟩ } :=
  (transact_read s rfl).trans (if_pos ⟨rfl, hb⟩)

/-- Settles O56: the entry is the one `State.pcChoice` names, which the trail has. -/
theorem pcReadDuringRun : Obligations.PcReadDuringRun := by
  intro s hb htr
  have hentry := List.getElem?_eq_getElem (pcChoice_lt htr)
  exact ⟨s.pcChoice, _, hentry, by rw [transact_pcRead hb, drawPc_of_entry hentry]⟩

end Sys2Proof.StateRules

/-! ## The two RAMs and the host bus (20_memory R201 to R225; 10_state R146)

Bytes and words of the RAMs, the transactions on them, and what an instruction or a step leaves of them. -/

namespace Sys2Proof.MemoryRules

open Sys2Proof.Machine Sys2Proof.Laws Sys2Proof.StateRules

/-! ### Big-endian values (00_scope R10) -/

theorem beValue_append : ∀ (acc : Nat) (xs ys : List Byte), beValue acc (xs ++ ys) = beValue (beValue acc xs) ys
  | _, [], _ => rfl
  | acc, x :: xs, ys => beValue_append (acc * 256 + x.toNat) xs ys

theorem beValue_eq_add : ∀ (acc : Nat) (bs : List Byte), beValue acc bs = acc * 256 ^ bs.length + beValue 0 bs
  | acc, [] => by simp [beValue]
  | acc, b :: bs => by
    rw [beValue, beValue_eq_add (acc * 256 + b.toNat), beValue, beValue_eq_add (0 * 256 + b.toNat), List.length_cons]
    ring

theorem beValue_lt : ∀ bs : List Byte, beValue 0 bs < 256 ^ bs.length
  | [] => by simp [beValue]
  | b :: bs => by
    have hb : b.toNat + 1 ≤ 256 := b.isLt
    have htail := beValue_lt bs
    rw [beValue, Nat.zero_mul, Nat.zero_add, beValue_eq_add, List.length_cons]
    calc b.toNat * 256 ^ bs.length + beValue 0 bs
        < (b.toNat + 1) * 256 ^ bs.length := by rw [Nat.add_one_mul]; omega
      _ ≤ 256 * 256 ^ bs.length := Nat.mul_le_mul_right _ hb
      _ = 256 ^ (bs.length + 1) := (Nat.pow_succ').symm

/-- Byte `k` of a big-endian value, counted from the top, is entry `k` of its list. -/
theorem byte_of_beValue : ∀ (bs : List Byte) (acc k : Nat) {b : Byte}, bs[k]? = some b →
    beValue acc bs / 256 ^ (bs.length - 1 - k) % 256 = b.toNat
  | [], _, _, _, h => by simp at h
  | x :: xs, acc, 0, b, h => by
    obtain rfl : x = b := by simpa using h
    have hdiv : (beValue 0 xs + (acc * 256 + x.toNat) * 256 ^ xs.length) / 256 ^ xs.length = acc * 256 + x.toNat := by
      rw [Nat.add_mul_div_right _ _ (Nat.pow_pos (by decide)), Nat.div_eq_of_lt (beValue_lt xs), Nat.zero_add]
    rw [beValue, beValue_eq_add, Nat.add_comm, List.length_cons, Nat.add_sub_cancel, Nat.sub_zero, hdiv]
    exact Nat.mul_add_mod_of_lt x.isLt
  | x :: xs, acc, k + 1, b, h => by
    have hexp : (x :: xs).length - 1 - (k + 1) = xs.length - 1 - k := by rw [List.length_cons]; omega
    rw [hexp]
    exact byte_of_beValue xs _ k (by simpa using h)

theorem beBytes_getElem? : ∀ (n v k : Nat), k < n →
    (beBytes v n)[k]? = some (BitVec.ofNat 8 (v / 256 ^ (n - 1 - k)))
  | n + 1, v, 0, _ => rfl
  | n + 1, v, k + 1, h => by
    rw [beBytes, List.getElem?_cons_succ, beBytes_getElem? n v k (by omega), show n + 1 - 1 - (k + 1) = n - 1 - k by omega]

/-! ### The data RAM: bytes, words, slots -/

theorem readByte_congr {s t : State} (hd : t.data = s.data) (hp : t.powerUps = s.powerUps) (a : Nat) :
    t.readByte a = s.readByte a := by
  simp only [State.readByte, hd, hp]

theorem readByte_memWrite_outside {s : State} {bs : List Byte} {a j : Nat} (h : j < a ∨ a + bs.length ≤ j) :
    (s.memWrite a bs).readByte j = s.readByte j := by
  rw [readByte_memWrite]
  split
  · exact List.getD_eq_default _ _ (by omega)
  · rfl

theorem memWrite_eq : ∀ (bs : List Byte) (s : State) (a : Nat),
    s.memWrite a bs = { s with data := (s.memWrite a bs).data }
  | [], _, _ => rfl
  | b :: bs, s, a => memWrite_eq bs (s.writeByte a b) (a + 1)

theorem memRead_append : ∀ (m n : Nat) (s : State) (a : Nat),
    s.memRead a (m + n) = s.memRead a m ++ s.memRead (a + m) n
  | 0, n, s, a => by rw [Nat.zero_add]; rfl
  | m + 1, n, s, a => by
    rw [Nat.succ_add, State.memRead, memRead_append m n, State.memRead, List.cons_append, Nat.succ_add_eq_add_succ]

/-- A byte of a written word: byte `k` from the top of the word (R205). -/
theorem readByte_setDataWord {s : State} {j k : Nat} (d : CmdWord) (hk : k < 4) :
    ((s.setDataWord j d).readByte (4 * j + k)).toNat = d.toNat / 256 ^ (3 - k) % 256 := by
  rw [State.setDataWord, readByte_memWrite, if_pos (Nat.le_add_right _ _), Nat.add_sub_cancel_left,
    List.getD_eq_getElem?_getD, beBytes_getElem? 4 _ k hk]
  simp

theorem readByte_setDataWord_outside {s : State} {j a : Nat} (d : CmdWord) (h : a < 4 * j ∨ 4 * j + 4 ≤ a) :
    (s.setDataWord j d).readByte a = s.readByte a :=
  readByte_memWrite_outside (by rwa [beBytes_length])

/-- No bit is lost: four bytes fill the bus word. -/
theorem dataWord_toNat (s : State) (j : Nat) : (s.dataWord j).toNat = beValue 0 (s.memRead (4 * j) 4) := by
  have hlt := beValue_lt (s.memRead (4 * j) 4)
  rw [memRead_length] at hlt
  exact Nat.mod_eq_of_lt hlt

/-- Byte `k` from the top of a word is `DATA[4j + k]` (R205). -/
theorem byte_of_dataWord (s : State) (j : Nat) {k : Nat} (hk : k < 4) :
    (s.dataWord j).toNat / 256 ^ (3 - k) % 256 = (s.readByte (4 * j + k)).toNat := by
  have hbyte := byte_of_beValue _ 0 k (memRead_getElem? 4 s (4 * j) k hk)
  rwa [memRead_length, ← dataWord_toNat] at hbyte

/-- The value of consecutive words of the data RAM, the first most significant. -/
theorem beValue_memRead_words (s : State) (j : Nat) : ∀ n : Nat,
    beValue 0 (s.memRead (4 * j) (4 * n)) =
      (List.range n).foldl (fun acc i => acc * 2 ^ 32 + (s.dataWord (j + i)).toNat) 0
  | 0 => rfl
  | n + 1 => by
    rw [List.range_succ, List.foldl_append, ← beValue_memRead_words s j n, Nat.mul_add, Nat.mul_one, memRead_append,
      beValue_append, beValue_eq_add, memRead_length, ← Nat.mul_add, ← dataWord_toNat]
    rfl

theorem be256_toNat {bs : List Byte} (h : bs.length = 32) : (be256 bs).toNat = beValue 0 bs := by
  have hlt := beValue_lt bs
  rw [h] at hlt
  exact Nat.mod_eq_of_lt hlt

/-! ### Accesses the bus rejects (R208) -/

theorem not_accepted {off : BitVec 14} {size : AccessSize} (h : size ≠ .four ∨ off.toNat % 4 ≠ 0) :
    ¬ accepted off size = true := by
  rw [accepted_iff]
  exact fun ⟨hs, ho⟩ => h.elim (· hs) (· ho)

/-- Settles O52: an access that is not accepted takes the rejecting branch of `transact`. -/
theorem rejectedAccess : Obligations.RejectedAccess :=
  fun _ _ _ _ h => ⟨if_neg (not_accepted h), if_neg (not_accepted h)⟩

/-! ### The window over the RAMs (R210, R221) -/

/-- The offsets of the two RAMs in the host's window (R210). -/
def RamOffset (off : Nat) : Prop := (0x1000 ≤ off ∧ off < 0x1400) ∨ (0x2000 ≤ off ∧ off < 0x3000)

theorem writeWindow_busy {s : State} {off : Nat} (d : CmdWord) (hb : s.runState = .busy) (h4 : off ≠ 0x004)
    (h8 : off ≠ 0x008) : s.writeWindow off d = s := by
  rw [State.writeWindow, if_neg h4, if_neg h8, if_pos hb]

theorem windowWord_ram_busy {s : State} {off : Nat} (hb : s.runState = .busy) (h : RamOffset off) :
    s.windowWord off = 0#32 := by
  unfold State.windowWord
  rcases h with ⟨hlo, hhi⟩ | ⟨hlo, hhi⟩
  · rw [if_neg (by omega), if_pos hhi, if_pos hb]
  · rw [if_neg (by omega), if_neg (by omega), if_neg (by omega), if_pos hhi, if_pos hb]

theorem windowWord_register (s : State) {off : Nat} (h : off < 0x1000) : s.windowWord off = s.registerWord off :=
  if_pos h

section OutsideRun

variable {s : State} (hb : s.runState ≠ .busy)
include hb

theorem windowWord_command {i : Nat} (hi : i < 256) : s.windowWord (0x1000 + 4 * i) = s.cmdWord i := by
  rw [State.windowWord, if_neg (by omega), if_pos (by omega), if_neg hb, show (0x1000 + 4 * i - 0x1000) / 4 = i by omega]

theorem windowWord_data {j : Nat} (hj : j < 1024) : s.windowWord (0x2000 + 4 * j) = s.dataWord j := by
  rw [State.windowWord, if_neg (by omega), if_neg (by omega), if_neg (by omega), if_pos (by omega), if_neg hb,
    show (0x2000 + 4 * j - 0x2000) / 4 = j by omega]

theorem writeWindow_command {i : Nat} (d : CmdWord) (hi : i < 256) :
    s.writeWindow (0x1000 + 4 * i) d = s.setCmdWord i d := by
  rw [State.writeWindow, if_neg (by omega), if_neg (by omega), if_neg hb, if_neg (by omega), if_pos (by omega),
    show (0x1000 + 4 * i - 0x1000) / 4 = i by omega]

theorem writeWindow_data {j : Nat} (d : CmdWord) (hj : j < 1024) :
    s.writeWindow (0x2000 + 4 * j) d = s.setDataWord j d := by
  rw [State.writeWindow, if_neg (by omega), if_neg (by omega), if_neg hb, if_neg (by omega), if_neg (by omega),
    if_pos (by omega), show (0x2000 + 4 * j - 0x2000) / 4 = j by omega]

end OutsideRun

theorem transact_read_at (s : State) {n : Nat} (hn : n < 2 ^ 14) (h4 : n % 4 = 0) (hpc : n ≠ 0x01C) :
    s.transact (.read (BitVec.ofNat 14 n) .four) = { s with resp := some ⟨s.windowWord n, false⟩ } := by
  have hoff : (BitVec.ofNat 14 n).toNat = n := Nat.mod_eq_of_lt hn
  rw [transact_read s (by rwa [hoff]), hoff, hostRead_eq s fun h => hpc h.1]

theorem transact_write_at (s : State) (d : CmdWord) {n : Nat} (hn : n < 2 ^ 14) (h4 : n % 4 = 0) :
    s.transact (.write (BitVec.ofNat 14 n) .four d) = { s.writeWindow n d with resp := some ⟨0#32, false⟩ } := by
  have hoff : (BitVec.ofNat 14 n).toNat = n := Nat.mod_eq_of_lt hn
  rw [transact_write s d (by rwa [hoff]), hoff]

/-- A read of PC answers without an error in every STATE (R157, R221). -/
theorem pcRead_answers (s : State) : ∃ p : CmdWord, (s.transact (.read 0x01C#14 .four)).resp = some ⟨p, false⟩ := by
  by_cases hb : s.runState = .busy
  · exact ⟨_, by rw [transact_pcRead hb]⟩
  · exact ⟨_, by rw [transact_read s rfl, hostRead_eq s fun h => hb h.2]⟩

/-- Settles O53: the branches of the window for BUSY, and `pcRead_answers`. -/
theorem hostAccessDuringRun : Obligations.HostAccessDuringRun := by
  refine ⟨fun s off d hb h4 h => ?_, fun s off hb h4 h => ?_, fun s off hb h4 h hpc => ?_, pcRead_answers⟩
  · rw [transact_write s d h4, writeWindow_busy d hb (by omega) (by omega)]
  · rw [transact_read s h4, hostRead_eq s (by omega), windowWord_ram_busy hb h]
  · rw [transact_read s h4, hostRead_eq s fun hread => hpc hread.1, windowWord_register s h]

/-! ### What an instruction leaves of the RAMs and of the host's side (R207, R701) -/

section Frames

variable {i : Instr} {s t : State}

theorem effect_frame_data (h : Effect i s t) {a : Nat}
    (hout : ∀ slot, i.storeSlot = some slot → a < slotAddr slot ∨ slotAddr slot + 32 ≤ a) :
    t.readByte a = s.readByte a := by
  cases h with
  | stored slot x hs =>
    have hbytes : a < slotAddr slot ∨ slotAddr slot + (bytesBe x).length ≤ a := by
      rw [bytesBe_length]; exact hout slot hs
    exact (readByte_congr (advance_data _) (advance_powerUps _) a).trans (readByte_memWrite_outside hbytes)
  | _ => exact rfl

theorem effect_sameHostSide (h : Effect i s t) : SameHostSide s t := by
  cases h with
  | stored => constructor <;> simp
  | _ => exact ⟨rfl, rfl, rfl, rfl, rfl, rfl, rfl, rfl, rfl⟩

end Frames

/-- Settles O37, from `effect_frame_data`. -/
theorem frameOfDataRam : Obligations.FrameOfDataRam :=
  fun _ _ _ _ h => effect_frame_data (effect_of_exec h)

/-- Settles O38, from `effect_sameHostSide`. -/
theorem frameOfHostSide : Obligations.FrameOfHostSide :=
  fun _ _ _ h => effect_sameHostSide (effect_of_exec h)

/-! ### The command RAM (R201, R225) -/

/-- What a command word reads as: nothing written since, and the draw of the RAM contents the same (R227). -/
structure SameCommandRam (s t : State) : Prop where
  cmd : t.cmd = s.cmd
  powerUps : t.powerUps = s.powerUps

theorem SameCommandRam.cmdWord {s t : State} (h : SameCommandRam s t) (i : Nat) : t.cmdWord i = s.cmdWord i := by
  simp only [State.cmdWord, h.cmd, h.powerUps]

/-- While BUSY no transaction writes the command RAM (R221). -/
theorem sameCommandRam_of_hostEffect {s t : State} {x : Transaction} (h : HostEffect s x t)
    (hb : s.runState = .busy) : SameCommandRam s t := by
  cases h with
  | command _ _ _ hn => exact absurd hb hn
  | data _ _ _ hn => exact absurd hb hn
  | _ => exact ⟨rfl, rfl⟩

/-- Neither the core nor, while BUSY, the host writes the command RAM. -/
theorem sameCommandRam_of_step {s t : State} (h : step s = .next t)
    (hm : s.nextMove = .core ∨ s.runState = .busy ∧ s.nextMove ≠ .hardReset) : SameCommandRam s t := by
  cases effect_of_step h with
  | hardReset hr => exact absurd hr (hm.elim (fun hc => by rw [hc]; decide) And.right)
  | host x t hx he =>
    rcases hm with hc | ⟨hb, -⟩
    · rw [hx] at hc; cases hc
    · obtain ⟨hcmd, hpow⟩ := sameCommandRam_of_hostEffect he hb
      exact ⟨hcmd, hpow⟩
  | rested => exact ⟨rfl, rfl⟩
  | fetchFault | illegal => exact ⟨by simp, by simp⟩
  | executed i u _ _ _ _ hx =>
    have hside := effect_sameHostSide (effect_of_exec hx)
    exact ⟨by simp [hside.cmd], by simp [hside.powerUps]⟩

/-- A core turn is the step of the state in which it is the next move. -/
theorem coreStep_eq_step (s : State) : coreStep s = step { s with schedule := .core :: s.schedule } := rfl

/-- Settles O54: the host's accesses by their window, the core's turns and the run by `sameCommandRam_of_step`. -/
theorem commandRamAccess : Obligations.CommandRamAccess := by
  refine ⟨fun s i d hi hb => ?_, fun s t h => ?_, fun s t hb hm h => ?_⟩
  · rw [transact_read_at s (by omega) (by omega) (by omega), windowWord_command hb hi,
      transact_write_at s d (by omega) (by omega), writeWindow_command hb d hi]
    have hword (j : Nat) := cmdWord_setCmdWord s i j d
    exact ⟨(hword i).trans (if_pos rfl), fun j hj => (hword j).trans (if_neg hj.symm), rfl, rfl⟩
  · rw [coreStep_eq_step] at h
    exact (sameCommandRam_of_step h (.inl rfl)).cmd
  · exact (sameCommandRam_of_step h (.inr ⟨hb, hm⟩)).cmdWord

/-! ### The data RAM on the bus (R205) -/

/-- Settles O55: the lanes by `byte_of_dataWord` and `readByte_setDataWord`, the slot by `beValue_memRead_words`. -/
theorem dataWordLanes : Obligations.DataWordLanes := by
  refine ⟨fun s j hj hb => ?_, fun s j d hj hb => ?_, fun s slot => ?_⟩
  · rw [transact_read_at s (by omega) (by omega) (by omega), windowWord_data hb hj]
    exact ⟨s.dataWord j, rfl, fun k hk => byte_of_dataWord s j hk⟩
  · rw [transact_write_at s d (by omega) (by omega), writeWindow_data hb d hj]
    have hbyte (a : Nat) := readByte_congr (s := s.setDataWord j d)
      (t := { s.setDataWord j d with resp := some ⟨0#32, false⟩ }) rfl rfl a
    refine ⟨_, rfl, fun k hk => ?_, fun a ha => ?_, ?_⟩
    · rw [hbyte, readByte_setDataWord d hk]
    · rw [hbyte, readByte_setDataWord_outside d ha]
    · rw [State.setDataWord, memWrite_eq]
  · have haddr : slotAddr slot = 4 * (8 * slot.toNat) := by rw [slotAddr]; omega
    rw [be256_toNat (memRead_length 32 _ _), haddr, ← beValue_memRead_words s _ 8]

end Sys2Proof.MemoryRules

/-! ## Fields and rows (30_encoding R301, R302, R321)

Every statement goes through the rows of R321: a word's opcode finds its row, the row's other mask bits are the format's
must-be-zero bits, and the bits outside the mask are the fields. -/

namespace Sys2Proof.EncodingRules

open Sys2Proof.Laws

/-! ### Fields at their places (R301) -/

/-- Extracting the place of a field gives the field. -/
theorem extract_placed_same {n : Nat} (x : BitVec n) {k : Nat} (h : k + n ≤ 32) :
    (x.setWidth 32 <<< k).extractLsb' k n = x := by
  refine BitVec.eq_of_getLsbD_eq fun i hi => ?_
  have hki : k + i < 32 := by omega
  simp [hi, hki]

/-- Extracting a place apart from a field gives 0. -/
theorem extract_placed_apart {m : Nat} (x : BitVec m) {j k n : Nat} (h : j + m ≤ k ∨ k + n ≤ j) :
    (x.setWidth 32 <<< j).extractLsb' k n = 0#n := by
  refine BitVec.eq_of_getLsbD_eq fun i hi => ?_
  rcases h with hge | hlt
  · have : x.getLsbD (k + i - j) = false := BitVec.getLsbD_of_ge _ _ (by omega)
    simp [this]
  · have : k + i < j := by omega
    simp [this]

/-- Putting an extracted field back at its place keeps the bits of that place. -/
theorem placed_extract (w mask : CmdWord) (k n : Nat)
    (h : ∀ i : Fin 32, mask.getLsbD i = decide (k ≤ (i : Nat) ∧ (i : Nat) < k + n)) :
    (w.extractLsb' k n).setWidth 32 <<< k = w &&& mask := by
  refine cmdWord_ext fun i => ?_
  rw [BitVec.getLsbD_and, h i, BitVec.getLsbD_shiftLeft, BitVec.getLsbD_setWidth, BitVec.getLsbD_extractLsb']
  have hi := i.isLt
  by_cases hk : k ≤ (i : Nat)
  · have hsub : (i : Nat) - k < 32 := by omega
    by_cases hn : (i : Nat) < k + n
    · have hin : (i : Nat) - k < n := by omega
      simp [hk, hn, hin, hsub, not_lt.2 hk]
    · have hout : ¬ (i : Nat) - k < n := by omega
      simp [hn, hout]
  · simp [hk, not_le.1 hk]

theorem placeLow_eq_shift {n : Nat} (x : BitVec n) : placeLow x = x.setWidth 32 <<< 0 := (BitVec.shiftLeft_zero _).symm

theorem placeMs_fieldMs (w : CmdWord) : placeMs (fieldMs w) = w &&& 0x03000000#32 := placed_extract w _ 24 2 (by decide)

theorem placeRd_fieldRd (w : CmdWord) : placeRd (fieldRd w) = w &&& 0x00F00000#32 := placed_extract w _ 20 4 (by decide)

theorem placeRs1_fieldRs1 (w : CmdWord) : placeRs1 (fieldRs1 w) = w &&& 0x000F0000#32 :=
  placed_extract w _ 16 4 (by decide)

theorem placeRs2_fieldRs2 (w : CmdWord) : placeRs2 (fieldRs2 w) = w &&& 0x0000F000#32 :=
  placed_extract w _ 12 4 (by decide)

theorem placeLow_fieldImm (w : CmdWord) : placeLow (fieldImm w) = w &&& 0x00000FFF#32 :=
  (placeLow_eq_shift _).trans (placed_extract w _ 0 12 (by decide))

theorem placeLow_fieldTarget (w : CmdWord) : placeLow (fieldTarget w) = w &&& 0x000000FF#32 :=
  (placeLow_eq_shift _).trans (placed_extract w _ 0 8 (by decide))

theorem placeLow_fieldSlot (w : CmdWord) : placeLow (fieldSlot w) = w &&& 0x0000007F#32 :=
  (placeLow_eq_shift _).trans (placed_extract w _ 0 7 (by decide))

theorem placeLow_fieldCid (w : CmdWord) : placeLow (fieldCid w) = w &&& 0x0000000F#32 :=
  (placeLow_eq_shift _).trans (placed_extract w _ 0 4 (by decide))

/-! ### The rows of R321 -/

/-- The bits of op, [31:26]. -/
def opBits : CmdWord := 0xFC000000#32

theorem fieldOp_eq_iff (w x : CmdWord) : fieldOp w = fieldOp x ↔ w &&& opBits = x &&& opBits := by
  have hplaced (y : CmdWord) : (fieldOp y).setWidth 32 <<< 26 = y &&& opBits := placed_extract y _ 26 6 (by decide)
  refine ⟨fun h => by rw [← hplaced, ← hplaced, h], fun h => ?_⟩
  rw [← hplaced, ← hplaced] at h
  rw [← extract_placed_same (fieldOp w) (show 26 + 6 ≤ 32 by decide), h, extract_placed_same _ (by decide)]

/-- Words are equal if they are inside and outside a mask. -/
theorem eq_iff_and_split (x y m : CmdWord) : x = y ↔ x &&& m = y &&& m ∧ x &&& ~~~m = y &&& ~~~m := by
  have hsplit (z : CmdWord) : (z &&& m) ||| (z &&& ~~~m) = z := by
    rw [← BitVec.and_or_distrib_left, BitVec.or_not_self, BitVec.and_allOnes]
  exact ⟨fun h => by rw [h]; exact ⟨rfl, rfl⟩, fun ⟨hin, hout⟩ => by rw [← hsplit x, ← hsplit y, hin, hout]⟩

/-- "Every mask covers op [31:26]" (R321), and a match value has no other bit. -/
theorem row_covers_op : ∀ r ∈ decodeRows, r.mask &&& opBits = opBits ∧ r.value &&& ~~~opBits = 0#32 := by decide

/-- The must-be-zero bits of a row's format: its mask outside op (R302). -/
def mustBeZero (r : DecodeRow) : CmdWord := r.mask &&& ~~~opBits

/-- A word matches a row when it has the row's op and its format's must-be-zero bits are 0. -/
theorem matches_iff {r : DecodeRow} (hr : r ∈ decodeRows) (w : CmdWord) :
    w &&& r.mask = r.value ↔ fieldOp w = fieldOp r.value ∧ w &&& mustBeZero r = 0#32 := by
  obtain ⟨hmask, hvalue⟩ := row_covers_op r hr
  rw [eq_iff_and_split _ _ opBits, BitVec.and_assoc, BitVec.and_assoc, hmask, hvalue, fieldOp_eq_iff, mustBeZero]

/-- The match values differ in op (R321). -/
theorem value_eq_of_op {r r' : DecodeRow} (hr : r ∈ decodeRows) (hr' : r' ∈ decodeRows)
    (h : fieldOp r.value = fieldOp r'.value) : r.value = r'.value :=
  (eq_iff_and_split _ _ opBits).2
    ⟨(fieldOp_eq_iff _ _).1 h, (row_covers_op r hr).2.trans (row_covers_op r' hr').2.symm⟩

/-- The word of a row's instruction: the match value with the bits of the word outside the mask. -/
theorem encode_row_instr (w : CmdWord) : ∀ r ∈ decodeRows, encode (r.instr w) = r.value ||| (w &&& ~~~r.mask) := by
  intro r hr
  fin_cases hr <;>
    simp [encode, placeMs_fieldMs, placeRd_fieldRd, placeRs1_fieldRs1, placeRs2_fieldRs2, placeLow_fieldImm,
      placeLow_fieldTarget, placeLow_fieldSlot, placeLow_fieldCid, BitVec.or_assoc, ← BitVec.and_or_distrib_left]

/-- A word that matches a row is the encoding of the row's instruction. -/
theorem encode_of_matches {r : DecodeRow} (hr : r ∈ decodeRows) {w : CmdWord} (h : w &&& r.mask = r.value) :
    encode (r.instr w) = w := by
  rw [encode_row_instr w r hr, ← h, ← BitVec.and_or_distrib_left, BitVec.or_not_self, BitVec.and_allOnes]

/-- The word of an instruction matches its mask and match value. -/
theorem encode_and_mask (i : Instr) : encode i &&& i.mask = i.matchValue := by
  cases i with
  | nop => exact EncodeMatch.nop
  | halt => exact EncodeMatch.halt
  | j target => exact EncodeMatch.j target
  | bf target => exact EncodeMatch.bf target
  | bnf target => exact EncodeMatch.bnf target
  | ldv rd slot => exact EncodeMatch.ldv rd slot
  | stv rs1 slot => exact EncodeMatch.stv rs1 slot
  | ldi rd imm => exact EncodeMatch.ldi rd imm
  | ldc rd cid => exact EncodeMatch.ldc rd cid
  | mov rd rs1 => exact EncodeMatch.mov rd rs1
  | setm rs1 => exact EncodeMatch.setm rs1
  | madd ms rd rs1 rs2 => exact EncodeMatch.madd ms rd rs1 rs2
  | msub ms rd rs1 rs2 => exact EncodeMatch.msub ms rd rs1 rs2
  | mmul ms rd rs1 rs2 => exact EncodeMatch.mmul ms rd rs1 rs2
  | minv ms rd rs1 => exact EncodeMatch.minv ms rd rs1
  | cmpge rs1 rs2 => exact EncodeMatch.cmpge rs1 rs2
  | mkpt rd rs1 rs2 => exact EncodeMatch.mkpt rd rs1 rs2
  | mkinf rd => exact EncodeMatch.mkinf rd
  | pmov rd rs1 => exact EncodeMatch.pmov rd rs1
  | ptx rd rs1 => exact EncodeMatch.ptx rd rs1
  | pty rd rs1 => exact EncodeMatch.pty rd rs1
  | ptinf rs1 => exact EncodeMatch.ptinf rs1
  | padd rd rs1 rs2 => exact EncodeMatch.padd rd rs1 rs2
  | pdbl rd rs1 => exact EncodeMatch.pdbl rd rs1
  | pmul rd rs1 rs2 => exact EncodeMatch.pmul rd rs1 rs2

/-- Every instruction has its row, whose fields of the instruction's word give it back. -/
theorem row_of_instr (i : Instr) :
    ∃ r ∈ decodeRows, r.mask = i.mask ∧ r.value = i.matchValue ∧ r.instr (encode i) = i := by
  cases i <;>
    simp [decodeRows, Instr.mask, Instr.matchValue, encode, fieldMs, fieldRd, fieldRs1, fieldRs2, fieldImm, fieldTarget,
      fieldSlot, fieldCid, placeMs, placeRd, placeRs1, placeRs2, placeLow_eq_shift, BitVec.extractLsb'_or,
      extract_placed_same, extract_placed_apart, -BitVec.shiftLeft_zero]

end Sys2Proof.EncodingRules

/-! ## Decoding and encoding (30_encoding R302, R320 to R322) -/

namespace Sys2Proof.EncodingRules

open Sys2Proof.Machine Sys2Proof.Laws Sys2Proof.StateRules

/-! ### What decode answers -/

theorem decodeForm_eq_ok_iff {mbz w : CmdWord} {why : Illegal} {i j : Instr} :
    decodeForm mbz w why i = .ok j ↔ w &&& mbz = 0#32 ∧ i.WellFormed = true ∧ i = j := by
  unfold decodeForm
  split
  · simp_all
  · split <;> simp_all

theorem decodeForm_rejects_iff {mbz w : CmdWord} {why : Illegal} {i : Instr} :
    (∃ e, decodeForm mbz w why i = .error e) ↔ w &&& mbz ≠ 0#32 ∨ ¬ i.WellFormed = true := by
  unfold decodeForm
  split
  · simp_all
  · split <;> simp_all

/-- The opcodes without a row, besides 0 (R322 item 2). -/
def OpUnassigned (op : BitVec 6) : Prop :=
  op.toNat ∈ [0x06, 0x07, 0x0E, 0x0F, 0x15, 0x16, 0x17, 0x1E, 0x1F] ∨ 0x23 ≤ op.toNat

theorem row_of_op : ∀ op : BitVec 6, op = 0#6 ∨ OpUnassigned op ∨ ∃ r ∈ decodeRows, fieldOp r.value = op := by
  unfold OpUnassigned
  decide

theorem decode_of_op_without_row {w : CmdWord} (h : fieldOp w = 0#6 ∨ OpUnassigned (fieldOp w)) :
    ∃ why, decode w = .error why := by
  unfold decode
  split
  case h_1 | h_27 => exact ⟨_, rfl⟩
  all_goals
    rename_i hop
    simp [OpUnassigned, hop, ← BitVec.toNat_inj] at h

/-- A word with a row's op is decoded by the row. -/
theorem decode_of_op {w : CmdWord} : ∀ r ∈ decodeRows, fieldOp w = fieldOp r.value →
    ∃ why, decode w = decodeForm (mustBeZero r) w why (r.instr w) := by
  intro r hr hop
  fin_cases hr <;> exact ⟨_, by rw [decode, hop]; rfl⟩

/-- R321: decode answers the instruction of the row a word matches, when the row's extra condition holds. -/
theorem decode_eq_ok_iff {w : CmdWord} {i : Instr} :
    decode w = .ok i ↔ ∃ r ∈ decodeRows, w &&& r.mask = r.value ∧ r.instr w = i ∧ i.WellFormed = true := by
  constructor
  · intro h
    rcases or_assoc.2 (row_of_op (fieldOp w)) with hnone | ⟨r, hr, hop⟩
    · obtain ⟨why, herr⟩ := decode_of_op_without_row hnone
      rw [herr] at h; cases h
    · obtain ⟨why, hform⟩ := decode_of_op r hr hop.symm
      rw [hform, decodeForm_eq_ok_iff] at h
      obtain ⟨hmbz, hwf, rfl⟩ := h
      exact ⟨r, hr, (matches_iff hr w).2 ⟨hop.symm, hmbz⟩, rfl, hwf⟩
  · rintro ⟨r, hr, hmatch, rfl, hwf⟩
    obtain ⟨hop, hmbz⟩ := (matches_iff hr w).1 hmatch
    obtain ⟨why, hform⟩ := decode_of_op r hr hop
    rw [hform]
    exact decodeForm_eq_ok_iff.2 ⟨hmbz, hwf, rfl⟩

/-- Settles O1, from the row of an instruction one way and `encode_of_matches` the other. -/
theorem decodeEncodeInverse : Obligations.DecodeEncodeInverse := by
  refine ⟨fun i hwf => ?_, fun w i h => ?_⟩
  · obtain ⟨r, hr, hmask, hvalue, hinstr⟩ := row_of_instr i
    have hmatch : encode i &&& r.mask = r.value := by rw [hmask, hvalue, encode_and_mask]
    exact decode_eq_ok_iff.2 ⟨r, hr, hmatch, hinstr, hwf⟩
  · obtain ⟨r, hr, hmatch, rfl, hwf⟩ := decode_eq_ok_iff.1 h
    exact ⟨hwf, encode_of_matches hr hmatch⟩

theorem runWord_of_rejected {s : State} {w : CmdWord} {why : Illegal} (h : decode w = .error why) :
    s.runWord w = .next (s.raise .illegal w) := by
  simp only [State.runWord, h]

/-- Settles O2, from `decode_eq_ok_iff`; the match values differ in op. -/
theorem decodeIsTheTable : Obligations.DecodeIsTheTable := by
  refine ⟨fun _ _ => decode_eq_ok_iff, fun w r hr r' hr' h h' => ?_, fun s w hnone => ?_⟩
  · have hop := ((matches_iff hr w).1 h).1
    have hop' := ((matches_iff hr' w).1 h').1
    exact value_eq_of_op hr hr' (hop.symm.trans hop')
  · cases hd : decode w with
    | error why => exact runWord_of_rejected hd
    | ok i =>
      obtain ⟨r, hr, hmatch, rfl, hwf⟩ := decode_eq_ok_iff.1 hd
      exact absurd ⟨hmatch, hwf⟩ (hnone r hr)

/-! ### The illegal words (R322) -/

/-- A field value the row's extra condition rejects: ms = 3, or a cid above 6 (R322 items 4 and 5). -/
def BadField (w : CmdWord) : Prop :=
  ((fieldOp w).toNat ∈ [0x10, 0x11, 0x12, 0x13] ∧ fieldMs w = 3#2) ∨ (fieldOp w = 0x0B#6 ∧ 7 ≤ (fieldCid w).toNat)

/-- The extra condition of a word's row fails exactly at a rejected field value. -/
theorem illFormed_iff {w : CmdWord} : ∀ r ∈ decodeRows, fieldOp w = fieldOp r.value →
    (¬ (r.instr w).WellFormed = true ↔ BadField w) := by
  intro r hr hop
  unfold BadField
  rw [hop]
  fin_cases hr <;> simp [Instr.WellFormed, fieldOp, BitVec.le_def, Nat.lt_iff_add_one_le]

/-- A word with a row's op is rejected when it misses the row's match value or its extra condition. -/
theorem rejected_iff_of_op {w : CmdWord} {r : DecodeRow} (hr : r ∈ decodeRows) (hop : fieldOp w = fieldOp r.value) :
    (∃ why, decode w = .error why) ↔ w &&& r.mask ≠ r.value ∨ BadField w := by
  obtain ⟨why, hform⟩ := decode_of_op r hr hop
  rw [hform, decodeForm_rejects_iff, illFormed_iff r hr hop]
  simp only [ne_eq, matches_iff hr, hop, true_and]

/-- Settles O3: the items by the row of the word's op, the step by `step_of_fetch`. -/
theorem illegalWords : Obligations.IllegalWords := by
  refine ⟨fun w => ⟨fun h => ?_, ?_⟩, fun s hm hb hp ⟨why, hd⟩ => ?_⟩
  · rcases row_of_op (fieldOp w) with hzero | hun | ⟨r, hr, hop⟩
    · exact .inl hzero
    · exact .inr (.inl hun)
    · rcases (rejected_iff_of_op hr hop.symm).1 h with hmatch | hfield
      · exact .inr (.inr (.inl ⟨r, hr, hop, hmatch⟩))
      · exact .inr (.inr (.inr hfield))
  · rintro (hzero | hun | ⟨r, hr, hop, hmatch⟩ | hfield)
    · exact decode_of_op_without_row (.inl hzero)
    · exact decode_of_op_without_row (.inr hun)
    · exact (rejected_iff_of_op hr hop.symm).2 (.inl hmatch)
    · rcases or_assoc.2 (row_of_op (fieldOp w)) with hnone | ⟨r, hr, hop⟩
      · exact decode_of_op_without_row hnone
      · exact (rejected_iff_of_op hr hop.symm).2 (.inr hfield)
  · rw [step_of_fetch hm hb hp, runWord_of_rejected hd]
    exact ⟨_, rfl, by simp, by simp [Exc.code], by simp, by simp⟩

/-- Settles O4, by evaluating `decode` on the thirteen words. -/
theorem sampleWordsDecode : Obligations.SampleWordsDecode :=
  ⟨rfl, rfl, rfl, rfl, rfl, rfl, rfl, rfl, rfl, rfl, rfl, rfl, rfl⟩

end Sys2Proof.EncodingRules

/-! ## Every step answers, and the core's turn comes (10_state R132; 70_reset R1014, R1032) -/

namespace Sys2Proof.ProgressRules

open Sys2Proof.Machine Sys2Proof.Laws Sys2Proof.StateRules Sys2Proof.EncodingRules

/-! ### Every step answers a next state -/

theorem finish_answers (s : State) (i : Instr) (r : Except Exc State) : ∃ t, s.finish i r = .next t := by
  cases r with
  | ok t => exact ⟨t, rfl⟩
  | error e => exact ⟨_, rfl⟩

/-- Every instruction ends in a next state: one that cannot fault at once, the others through `State.finish` (R323). -/
theorem exec_answers (i : Instr) (s : State) : ∃ t, exec i s = .next t := by
  cases i with
  | nop | halt | j | bf | bnf | ldv | ldi | mkinf => exact ⟨_, rfl⟩
  | _ => exact finish_answers s _ _

theorem runWord_answers (s : State) (w : CmdWord) : ∃ t, s.runWord w = .next t := by
  cases hd : decode w with
  | ok i => rw [runWord_of_decode hd]; exact exec_answers i s
  | error why => exact ⟨_, runWord_of_rejected hd⟩

theorem coreStep_answers (s : State) : ∃ t, coreStep s = .next t := by
  unfold coreStep
  split
  · exact ⟨s, rfl⟩
  split
  · exact ⟨_, rfl⟩
  · obtain ⟨t, ht⟩ := runWord_answers s (s.cmdWord s.pc.toNat)
    exact ⟨t.noteReached, by rw [ht]; rfl⟩

theorem step_answers (s : State) : ∃ t, step s = .next t := by
  unfold step
  cases s.nextMove with
  | core => exact coreStep_answers s.popMove
  | bus x => exact ⟨_, rfl⟩
  | hardReset => exact ⟨_, rfl⟩

/-! ### The core's turn comes -/

/-- Finitely many steps lead to the core's turn. -/
def ReachesCoreTurn (s : State) : Prop := ∃ (n : Nat) (t : State), core.run n s = .next t ∧ t.nextMove = .core

theorem run_succ_of_step {s t : State} (h : step s = .next t) (n : Nat) : core.run (n + 1) s = core.run n t := by
  have hstep : core.step s = .next t := h
  simp only [Host.Core.run, hstep]

theorem reachesCoreTurn_of_step {s t : State} (h : step s = .next t) (ht : ReachesCoreTurn t) : ReachesCoreTurn s := by
  obtain ⟨n, u, hrun, hu⟩ := ht
  exact ⟨n + 1, u, (run_succ_of_step h n).trans hrun, hu⟩

/-- A core turn among the moves at hand comes after the moves before it. -/
theorem reachesCoreTurn_of_mem_pending : ∀ (ms : List Move) (s : State), s.pending.1 = ms → .core ∈ ms →
    ReachesCoreTurn s
  | [], _, _, hmem => by cases hmem
  | mv :: ms, s, hs, hmem => by
    obtain ⟨hnext, hpop⟩ := List.cons.inj ((nextMove_cons_popMove s).trans hs)
    rcases List.mem_cons.1 hmem with rfl | hmem
    · exact ⟨0, s, rfl, hnext⟩
    · obtain ⟨t, ht⟩ := step_answers s
      have hsched : t.schedule = ms := (moves_of_step ht).1.trans hpop
      obtain ⟨mv', ms', hcons⟩ := List.exists_cons_of_ne_nil (List.ne_nil_of_mem hmem)
      have hpend : t.pending.1 = ms := by rw [pending_of_schedule (hsched.trans hcons), hcons]
      exact reachesCoreTurn_of_step ht (reachesCoreTurn_of_mem_pending ms t hpend hmem)

/-- When the schedule is used up, a core turn is among the moves at hand (R1032). -/
theorem core_mem_pending {s : State} (h : s.schedule = []) : .core ∈ s.pending.1 := by
  cases hk : s.stream with
  | none => rw [pending_of_silence h hk]; simp
  | some k => rw [pending_of_stream h hk]; simp

/-- From every state the core's turn comes: the schedule is used up, and then it is at hand. -/
theorem reachesCoreTurn : ∀ (ms : List Move) (s : State), s.schedule = ms → ReachesCoreTurn s
  | [], s, hs => reachesCoreTurn_of_mem_pending _ s rfl (core_mem_pending hs)
  | mv :: ms, s, hs => by
    obtain ⟨t, ht⟩ := step_answers s
    have hpop : s.popMove.schedule = ms := by rw [(moves_of_pending (pending_of_schedule hs)).2]
    exact reachesCoreTurn_of_step ht (reachesCoreTurn ms t ((moves_of_step ht).1.trans hpop))

/-- Settles O6, from `step_answers` and the induction over the schedule of `reachesCoreTurn`. -/
theorem stepAlwaysAnswers : Obligations.StepAlwaysAnswers :=
  ⟨step_answers, fun s => reachesCoreTurn s.schedule s rfl⟩

end Sys2Proof.ProgressRules

/-! ## Modular arithmetic (40_modular_arith)

For each instruction, what it leaves when its checks pass; for each result, its value as a number. The obligations are
these two together. -/

namespace Sys2Proof.ArithRules

open Sys2Proof.Machine Sys2Proof.Laws

/-! ### The state an arithmetic instruction leaves -/

section Exec

variable {ms : BitVec 2} {rs1 rs2 : VReg} {s : State} {m : Word}

theorem exec_madd (hm : s.modval ms = .ok m) (h1 : s.vValid rs1 = true) (h2 : s.vValid rs2 = true) (rd : VReg) :
    exec (.madd ms rd rs1 rs2) s = .next (s.writeV rd (maddValue (s.vReg rs1) (s.vReg rs2) m)).advance := by
  simp [exec, execMadd, hm, readV_of_valid h1, readV_of_valid h2]

theorem exec_msub (hm : s.modval ms = .ok m) (h1 : s.vValid rs1 = true) (h2 : s.vValid rs2 = true) (rd : VReg) :
    exec (.msub ms rd rs1 rs2) s = .next (s.writeV rd (msubValue (s.vReg rs1) (s.vReg rs2) m)).advance := by
  simp [exec, execMsub, hm, readV_of_valid h1, readV_of_valid h2]

theorem exec_mmul (hm : s.modval ms = .ok m) (h1 : s.vValid rs1 = true) (h2 : s.vValid rs2 = true)
    (hc : modcheck ms m = .ok ()) (rd : VReg) :
    exec (.mmul ms rd rs1 rs2) s = .next (s.writeV rd (mmulValue (s.vReg rs1) (s.vReg rs2) m)).advance := by
  simp [exec, execMmul, hm, readV_of_valid h1, readV_of_valid h2, hc]

theorem exec_minv (hm : s.modval ms = .ok m) (h1 : s.vValid rs1 = true) (hc : modcheck ms m = .ok ()) {x : Word}
    (hx : minvValue (s.vReg rs1) m = .ok x) (rd : VReg) :
    exec (.minv ms rd rs1) s = .next (s.writeV rd x).advance := by
  simp [exec, execMinv, hm, readV_of_valid h1, hc, hx]

theorem exec_cmpge (h1 : s.vValid rs1 = true) (h2 : s.vValid rs2 = true) :
    exec (.cmpge rs1 rs2) s = .next (s.setF (geFlag (s.vReg rs1) (s.vReg rs2))).advance := by
  simp [exec, execCmpge, readV_of_valid h1, readV_of_valid h2]

end Exec

/-! ### Reads after an arithmetic instruction -/

section Written

variable (s : State) (rd : VReg) (x : Word)

theorem modval_written (ms : BitVec 2) : (s.writeV rd x).advance.modval ms = s.modval ms := rfl

theorem vReg_written_same : (s.writeV rd x).advance.vReg rd = x := (vReg_writeV s rd rd x).trans (if_pos rfl)

theorem vValid_written_same : (s.writeV rd x).advance.vValid rd = true := (vValid_writeV s rd rd x).trans (if_pos rfl)

theorem vReg_written_other {r : VReg} (h : rd ≠ r) : (s.writeV rd x).advance.vReg r = s.vReg r :=
  (vReg_writeV s rd r x).trans (if_neg h)

theorem vValid_written_other {r : VReg} (h : rd ≠ r) : (s.writeV rd x).advance.vValid r = s.vValid r :=
  (vValid_writeV s rd r x).trans (if_neg h)

end Written

/-! ### The moduli (10_state R122; R422) -/

theorem modulus_cases {s : State} {ms : BitVec 2} {m : Word} (h : s.modval ms = .ok m) :
    (ms = 0#2 ∧ m = BitVec.ofNat 256 primeP) ∨ (ms = 1#2 ∧ m = BitVec.ofNat 256 orderN) ∨
      (ms = 2#2 ∧ s.readM = .ok m) := by
  unfold State.modval at h
  split at h
  · exact .inl ⟨‹_›, (Except.ok.inj h).symm⟩
  split at h
  · exact .inr (.inl ⟨‹_›, (Except.ok.inj h).symm⟩)
  split at h
  · exact .inr (.inr ⟨‹_›, h⟩)
  · cases h

/-- A usable modulus is at least 3: P and N are, and for M it is what R422 asks. -/
theorem three_le_modulus {s : State} {ms : BitVec 2} {m : Word} (h : s.modval ms = .ok m)
    (hu : ms = 2#2 → m.toNat % 2 = 1 ∧ 3 ≤ m.toNat) : 3 ≤ m.toNat := by
  rcases modulus_cases h with ⟨-, rfl⟩ | ⟨-, rfl⟩ | ⟨hms, -⟩
  · decide
  · decide
  · exact (hu hms).2

theorem modcheck_of_usable {ms : BitVec 2} {m : Word} (hu : ms = 2#2 → m.toNat % 2 = 1 ∧ 3 ≤ m.toNat) :
    modcheck ms m = .ok () := by
  rw [modcheck_eq_ok]
  rintro ⟨hms, hbad⟩
  obtain ⟨hodd, hge⟩ := hu hms
  omega

/-! ### The sum (R400, R401) -/

/-- The carry out of the raw sum needs no case of its own: a sum of at least W is at least every modulus. -/
theorem maddValue_toNat (a b m : Word) :
    (maddValue a b m).toNat =
      if m.toNat ≤ a.toNat + b.toNat then (a.toNat + b.toNat - m.toNat) % 2 ^ 256 else a.toNat + b.toNat := by
  have ha := a.isLt
  have hb := b.isLt
  have hm := m.isLt
  have hcond : (W ≤ a.toNat + b.toNat ∨ m.toNat ≤ (a.toNat + b.toNat) % W) ↔ m.toNat ≤ a.toNat + b.toNat := by
    unfold W; omega
  simp only [maddValue, hcond]
  split <;> rw [BitVec.toNat_ofNat] <;> unfold W <;> omega

/-- R401. -/
theorem maddValue_of_canonical {a b m : Word} (ha : a.toNat < m.toNat) (hb : b.toNat < m.toNat) :
    (maddValue a b m).toNat = (a.toNat + b.toNat) % m.toNat := by
  have hm := m.isLt
  rw [maddValue_toNat]
  by_cases hred : m.toNat ≤ a.toNat + b.toNat
  · rw [if_pos hred, Nat.mod_eq_sub_mod hred, Nat.mod_eq_of_lt (by omega), Nat.mod_eq_of_lt (by omega)]
  · rw [if_neg hred, Nat.mod_eq_of_lt (by omega)]

/-! ### The difference (R410, R411) -/

theorem msubValue_of_le {a b : Word} (h : b.toNat ≤ a.toNat) (m : Word) :
    (msubValue a b m).toNat = a.toNat - b.toNat := by
  have ha := a.isLt
  rw [msubValue, if_neg (by omega), BitVec.toNat_ofNat]
  unfold W; omega

theorem msubValue_of_lt {a b : Word} (h : a.toNat < b.toNat) (m : Word) :
    (msubValue a b m).toNat = (a.toNat + 2 ^ 256 - b.toNat + m.toNat) % 2 ^ 256 := by
  have hb := b.isLt
  rw [msubValue, if_pos h, BitVec.toNat_ofNat]
  unfold W; omega

/-- R411: of canonical operands the difference is not negative, or the modulus makes it so. -/
theorem msubValue_of_canonical {a b m : Word} (ha : a.toNat < m.toNat) (hb : b.toNat < m.toNat) :
    ((msubValue a b m).toNat : Int) = (a.toNat - b.toNat : Int) % m.toNat := by
  have hm := m.isLt
  rcases Nat.lt_or_ge a.toNat b.toNat with h | h
  · rw [msubValue_of_lt h, ← Int.add_emod_right, Int.emod_eq_of_lt (by omega) (by omega)]
    omega
  · rw [msubValue_of_le h, Int.emod_eq_of_lt (by omega) (by omega)]
    omega

/-- R411: subtracting undoes adding. -/
theorem msubValue_maddValue {a b m : Word} (ha : a.toNat < m.toNat) (hb : b.toNat < m.toNat) :
    msubValue (maddValue a b m) b m = a := by
  have hm := m.isLt
  have hsum := maddValue_toNat a b m
  apply BitVec.eq_of_toNat_eq
  by_cases hred : m.toNat ≤ a.toNat + b.toNat
  · rw [if_pos hred] at hsum
    rw [msubValue_of_lt (by omega)]
    omega
  · rw [if_neg hred] at hsum
    rw [msubValue_of_le (by omega)]
    omega

/-- R411: the modulus less an operand is its additive inverse. -/
theorem maddValue_msubValue_self {b m : Word} (hb : b.toNat < m.toNat) : maddValue b (msubValue m b m) m = 0#256 := by
  have hneg : (msubValue m b m).toNat = m.toNat - b.toNat := msubValue_of_le hb.le m
  apply BitVec.eq_of_toNat_eq
  rw [maddValue_toNat, hneg, if_pos (by omega)]
  simp [Nat.add_sub_cancel' hb.le]

/-! ### The product and the inverse (R420, R440) -/

theorem mmulValue_toNat {m : Word} (hm : 0 < m.toNat) (a b : Word) :
    (mmulValue a b m).toNat = a.toNat * b.toNat % m.toNat := by
  rw [mmulValue, BitVec.toNat_ofNat]
  exact Nat.mod_eq_of_lt ((Nat.mod_lt _ hm).trans m.isLt)

/-- An operand prime to the modulus has an inverse, and MINV finds it (R440). -/
theorem minvValue_of_coprime {a m : Word} (hm : 1 < m.toNat) (hg : Nat.gcd (a.toNat % m.toNat) m.toNat = 1) :
    ∃ x : Word, minvValue a m = .ok x ∧ x.toNat < m.toNat ∧ a.toNat % m.toNat * x.toNat % m.toNat = 1 := by
  cases hinv : modInverse (a.toNat % m.toNat) m.toNat with
  | none => exact absurd hg (modInverse_eq_none_iff.1 hinv)
  | some c =>
    obtain ⟨hlt, hmul⟩ := modInverse_spec hm m.isLt hinv
    have hc : (BitVec.ofNat 256 c).toNat = c := Nat.mod_eq_of_lt (hlt.trans m.isLt)
    exact ⟨BitVec.ofNat 256 c, by simp [minvValue, hinv], by rwa [hc], by rwa [hc]⟩

/-- Two inverses of one operand are congruent, and below the modulus equal. -/
theorem inverse_unique {a b c m : Nat} (hg : Nat.gcd a m = 1) (hb : b < m) (hc : c < m)
    (hab : a * b % m = 1) (hac : a * c % m = 1) : b = c := by
  have hbc : a * b ≡ a * c [MOD m] := hab.trans hac.symm
  exact (Nat.ModEq.cancel_left_of_coprime (by rwa [Nat.gcd_comm]) hbc).eq_of_lt_of_lt hb hc

/-! ### The obligations -/

/-- Settles O15, from `maddValue_toNat` and the modulus each `ms` selects. -/
theorem maddResult : Obligations.MaddResult := by
  refine ⟨fun ms rd rs1 rs2 s m hm h1 h2 => ⟨_, exec_madd hm h1 h2 rd, maddValue_toNat _ _ _⟩,
    modval_zero, modval_one, fun s hv => ?_, fun s hv => ?_⟩
  · rw [modval_two, readM_of_valid hv]
  · rw [modval_two, readM_of_invalid hv]

/-- Settles O16, from `maddValue_of_canonical`. -/
theorem maddCanonical : Obligations.MaddCanonical := by
  intro ms rd rs1 rs2 s m hm h1 h2 ha hb
  have hval := maddValue_of_canonical ha hb
  exact ⟨_, exec_madd hm h1 h2 rd, hval, hval ▸ Nat.mod_lt _ (by omega)⟩

/-- Settles O17, by the borrow. -/
theorem msubResult : Obligations.MsubResult := by
  intro ms rd rs1 rs2 s m hm h1 h2
  refine ⟨_, exec_msub hm h1 h2 rd, ?_⟩
  have hb := (s.vReg rs2).isLt
  split
  · rw [msubValue_of_lt ‹_›]; omega
  · rw [msubValue_of_le (by omega)]; omega

/-- Settles O18: the three laws of the values, run through the register written between the two instructions. -/
theorem msubCanonical : Obligations.MsubCanonical := by
  refine ⟨fun ms rd rs1 rs2 s m hm h1 h2 ha hb => ?_, fun ms rd rs1 rs2 s m hm h1 h2 ha hb hne => ?_,
    fun ms rd rs1 rs2 s m hm h1 h2 ha hb hne => ?_⟩
  · have hval := msubValue_of_canonical ha hb
    refine ⟨_, exec_msub hm h1 h2 rd, hval, ?_⟩
    have := Int.emod_lt_of_pos ((s.vReg rs1).toNat - (s.vReg rs2).toNat : Int) (b := m.toNat) (by omega)
    omega
  · refine ⟨_, _, exec_madd hm h1 h2 rd, exec_msub ((modval_written ..).trans hm) (vValid_written_same ..)
      ((vValid_written_other _ _ _ hne).trans h2) rd, ?_⟩
    rw [vReg_written_same, vReg_written_same, vReg_written_other _ _ _ hne, msubValue_maddValue ha hb]
  · refine ⟨_, _, exec_msub hm h1 h2 rd, exec_madd ((modval_written ..).trans hm)
      ((vValid_written_other _ _ _ hne).trans h2) (vValid_written_same ..) rd, ?_⟩
    rw [vReg_written_same, vReg_written_same, vReg_written_other _ _ _ hne, ha, maddValue_msubValue_self hb]

/-- Settles O19, from `mmulValue_toNat`: a usable modulus passes the check and is not 0. -/
theorem mmulResult : Obligations.MmulResult := by
  intro ms rd rs1 rs2 s m hm h1 h2 hu
  have hpos : 0 < m.toNat := by have := three_le_modulus hm hu; omega
  have hval := mmulValue_toNat hpos (s.vReg rs1) (s.vReg rs2)
  exact ⟨_, exec_mmul hm h1 h2 (modcheck_of_usable hu) rd, hval, hval ▸ Nat.mod_lt _ hpos⟩

/-- Settles O20, from `minvValue_of_coprime` and `inverse_unique`. -/
theorem minvResult : Obligations.MinvResult := by
  intro ms rd rs1 s m hm h1 hu hg
  have hge := three_le_modulus hm hu
  obtain ⟨x, hx, hlt, hmul⟩ := minvValue_of_coprime (by omega) hg
  have hpos : 1 ≤ x.toNat := by
    rcases Nat.eq_zero_or_pos x.toNat with h0 | h0
    · simp [h0] at hmul
    · exact h0
  exact ⟨x, exec_minv hm h1 (modcheck_of_usable hu) hx rd, hpos, by omega, hmul,
    fun c _ hc hac => inverse_unique hg (by omega) hlt hac hmul⟩

/-- Settles O23, from `exec_cmpge`. -/
theorem cmpgeResult : Obligations.CmpgeResult := fun _ _ _ h1 h2 => exec_cmpge h1 h2

end Sys2Proof.ArithRules

/-! ## Points (41_point_ops)

The field elements that words stand for, the two slope formulas of the group law, and what each point instruction does
when its source registers are valid. -/

namespace Sys2Proof.PointRules

open Sys2Proof.Machine Sys2Proof.Laws

/-! ### Words as elements of the field (00_scope R12, R13) -/

theorem fieldOf_inj {x y : Word} (hx : x.toNat < primeP) (hy : y.toNat < primeP) (h : fieldOf x = fieldOf y) :
    x = y := by
  have hmod : x.toNat ≡ y.toNat [MOD primeP] := (ZMod.natCast_eq_natCast_iff _ _ _).1 h
  exact BitVec.eq_of_toNat_eq (hmod.eq_of_lt_of_lt hx hy)

theorem two_ne_zero_mod_P : (2 : F) ≠ 0 := by
  have h : ((2 : Nat) : F) ≠ 0 := by rw [Ne, ZMod.natCast_eq_zero_iff]; decide
  simpa using h

/-- Division of R13 undoes multiplication where the denominator is nonzero modulo P. -/
theorem cast_fdiv_mul (a : Nat) {b : Nat} (hb : (b : F) ≠ 0) : ((fdiv a b : Nat) : F) * b = a := by
  have := primeP_fact
  rw [fdiv, cast_fmul, cast_finv hb, inv_mul_cancel_right₀ hb]

/-- A valid affine point: canonical coordinates that satisfy the curve equation (R500). -/
theorem validPt_aff_iff {x y : Word} : validPt (.aff x y) = true ↔
    x.toNat < primeP ∧ y.toNat < primeP ∧ fieldOf y ^ 2 = fieldOf x ^ 3 + 7 := onCurve_iff _ _

/-! ### The slopes of the group law (R501, R502) -/

/-- The point both formulas end with: on the line of slope `s` through `x`, `y`, at the abscissa `c`, reflected. Its words
stand for these coordinates. -/
theorem affine_on_line (s : Nat) (x y : Word) {c : Nat} (hc : c < primeP) :
    ∃ x3 y3 : Word, affine c (fsub (fmul s (fsub x.toNat c)) y.toNat) = .aff x3 y3 ∧
      x3.toNat < primeP ∧ y3.toNat < primeP ∧ fieldOf x3 = c ∧
      fieldOf y3 = (s : F) * (fieldOf x - fieldOf x3) - fieldOf y := by
  have hfit {a : Nat} (ha : a < primeP) : (BitVec.ofNat 256 a).toNat = a := Nat.mod_eq_of_lt (ha.trans (by decide))
  have hy3 := fsub_lt (fmul s (fsub x.toNat c)) y.toNat
  refine ⟨_, _, rfl, by rwa [hfit hc], by rwa [hfit hy3], by rw [fieldOf, hfit hc], ?_⟩
  simp only [fieldOf, hfit hc, hfit hy3, cast_fsub, cast_fmul]

/-- Doubling along the tangent. -/
theorem pointDouble_tangent (x : Word) {y : Word} (hy : fieldOf y ≠ 0) :
    ∃ (lam : ZMod primeP) (x3 y3 : Word), pointDouble (.aff x y) = .aff x3 y3 ∧
      x3.toNat < primeP ∧ y3.toNat < primeP ∧
      lam * (2 * fieldOf y) = 3 * (fieldOf x * fieldOf x) + (curveA : ZMod primeP) ∧
      fieldOf x3 = lam * lam - 2 * fieldOf x ∧
      fieldOf y3 = lam * (fieldOf x - fieldOf x3) - fieldOf y := by
  have := primeP_fact
  have hy0 : y.toNat ≠ 0 := fun h0 => hy (by simp [fieldOf, h0])
  have hden : ((fmul 2 y.toNat : Nat) : F) = 2 * fieldOf y := cast_fmul 2 y.toNat
  have hslope := cast_fdiv_mul (fadd (fmul 3 (fmul x.toNat x.toNat)) curveA)
    (hden ▸ mul_ne_zero two_ne_zero_mod_P hy)
  rw [hden] at hslope
  rw [pointDouble]
  dsimp only
  rw [if_neg hy0]
  obtain ⟨x3, y3, hpt, hx3, hy3, hfx, hfy⟩ := affine_on_line _ _ _ (fsub_lt _ _)
  refine ⟨_, x3, y3, hpt, hx3, hy3, hslope.trans ?_, hfx.trans ?_, hfy⟩
  · simp only [cast_fadd, cast_fmul, fieldOf, Nat.cast_ofNat]
  · simp only [cast_fsub, cast_fmul, fieldOf, Nat.cast_ofNat]

/-- Adding along the chord. -/
theorem pointAdd_chord {x1 x2 : Word} (y1 y2 : Word) (hx : fieldOf x1 ≠ fieldOf x2) :
    ∃ (lam : ZMod primeP) (x3 y3 : Word), pointAdd (.aff x1 y1) (.aff x2 y2) = .aff x3 y3 ∧
      x3.toNat < primeP ∧ y3.toNat < primeP ∧
      lam * (fieldOf x2 - fieldOf x1) = fieldOf y2 - fieldOf y1 ∧
      fieldOf x3 = lam * lam - fieldOf x1 - fieldOf x2 ∧
      fieldOf y3 = lam * (fieldOf x1 - fieldOf x3) - fieldOf y1 := by
  have hx0 : x1.toNat ≠ x2.toNat := fun h0 => hx (by simp [fieldOf, h0])
  have hden : ((fsub x2.toNat x1.toNat : Nat) : F) = fieldOf x2 - fieldOf x1 := cast_fsub x2.toNat x1.toNat
  have hslope := cast_fdiv_mul (fsub y2.toNat y1.toNat) (hden ▸ sub_ne_zero.2 hx.symm)
  rw [hden] at hslope
  rw [pointAdd]
  dsimp only
  rw [if_neg fun h => hx0 h.1, if_neg fun h => hx0 h.1]
  obtain ⟨x3, y3, hpt, hx3, hy3, hfx, hfy⟩ := affine_on_line _ _ _ (fsub_lt _ _)
  refine ⟨_, x3, y3, hpt, hx3, hy3, hslope.trans ?_, hfx.trans ?_, hfy⟩
  · simp only [cast_fsub, fieldOf]
  · simp only [cast_fsub, cast_fmul, fieldOf]

theorem pointAdd_inf_left (q : Point) : pointAdd .inf q = q := rfl

theorem pointAdd_inf_right (p : Point) : pointAdd p .inf = p := by cases p <;> rfl

/-- Two points on one vertical line sum to infinity. -/
theorem pointAdd_vertical (x : Word) {y1 y2 : Word} (h : y1 ≠ y2) : pointAdd (.aff x y1) (.aff x y2) = .inf :=
  if_pos ⟨rfl, fun he => h (BitVec.eq_of_toNat_eq he)⟩

theorem pointAdd_self (x y : Word) : pointAdd (.aff x y) (.aff x y) = pointDouble (.aff x y) := by
  rw [pointAdd]
  dsimp only
  rw [if_neg fun h => h.2 rfl, if_pos ⟨rfl, rfl⟩]

/-- The chord through two points is the same from either end, and so is the point it gives. -/
theorem chord_symm {K : Type} [Field K] {x1 y1 x2 y2 lam mu x3 y3 x3' y3' : K} (hx : x1 ≠ x2)
    (hlam : lam * (x2 - x1) = y2 - y1) (hx3 : x3 = lam * lam - x1 - x2) (hy3 : y3 = lam * (x1 - x3) - y1)
    (hmu : mu * (x1 - x2) = y1 - y2) (hx3' : x3' = mu * mu - x2 - x1) (hy3' : y3' = mu * (x2 - x3') - y2) :
    x3 = x3' ∧ y3 = y3' := by
  have hslope : lam = mu := by
    apply mul_right_cancel₀ (sub_ne_zero.2 hx.symm)
    linear_combination hlam + hmu
  subst hslope
  have hsame : x3 = x3' := by rw [hx3, hx3']; ring
  refine ⟨hsame, ?_⟩
  rw [hy3, hy3', ← hsame]
  linear_combination -hlam

/-! ### Valid points (R503) -/

/-- 7 is no cube modulo P: a cube's power to (P - 1) / 3 is 1, by Fermat. -/
theorem seven_not_cube (x : F) : x ^ 3 ≠ 7 := by
  have := primeP_fact
  intro hcube
  have hx : x ≠ 0 := by
    rintro rfl
    have h7 : ((7 : Nat) : F) ≠ 0 := by rw [Ne, ZMod.natCast_eq_zero_iff]; decide
    exact h7 (by simpa using hcube.symm)
  have hone : (7 : F) ^ ((primeP - 1) / 3) = 1 := by
    rw [← hcube, ← pow_mul, show 3 * ((primeP - 1) / 3) = primeP - 1 by decide]
    exact ZMod.pow_card_sub_one_eq_one hx
  have hmod : 7 ^ ((primeP - 1) / 3) % primeP = 1 % primeP :=
    (ZMod.natCast_eq_natCast_iff' _ _ _).1 (by push_cast; exact hone)
  rw [← powMod_eq 7 primeP 256 _ (by decide)] at hmod
  exact absurd hmod (by decide +kernel)

/-- No point of the curve has y = 0 (R503): its x would be a cube root of -7. -/
theorem fieldOf_y_ne_zero {x y : Word} (h : validPt (.aff x y) = true) : fieldOf y ≠ 0 := by
  obtain ⟨-, -, hc⟩ := validPt_aff_iff.1 h
  intro hy
  rw [hy] at hc
  exact seven_not_cube (-fieldOf x) (by linear_combination hc)

/-- Valid points with different x differ in x modulo P. -/
theorem fieldOf_x_ne {x1 y1 x2 y2 : Word} (h1 : validPt (.aff x1 y1) = true) (h2 : validPt (.aff x2 y2) = true)
    (hne : x1 ≠ x2) : fieldOf x1 ≠ fieldOf x2 :=
  fun he => hne (fieldOf_inj (validPt_aff_iff.1 h1).1 (validPt_aff_iff.1 h2).1 he)

/-- The two square roots of one x: equal, or negatives modulo P. -/
theorem y_eq_or_negated {x y1 y2 : Word} (h1 : validPt (.aff x y1) = true) (h2 : validPt (.aff x y2) = true) :
    y1 = y2 ∨ y1.toNat = primeP - y2.toNat := by
  have := primeP_fact
  obtain ⟨-, hlt1, hc1⟩ := validPt_aff_iff.1 h1
  obtain ⟨-, hlt2, hc2⟩ := validPt_aff_iff.1 h2
  rcases sq_eq_sq_iff_eq_or_eq_neg.1 (hc1.trans hc2.symm) with heq | hneg
  · exact .inl (fieldOf_inj hlt1 hlt2 heq)
  · right
    have hdvd : primeP ∣ y1.toNat + y2.toNat := by
      rw [← ZMod.natCast_eq_zero_iff, Nat.cast_add]
      exact eq_neg_iff_add_eq_zero.1 hneg
    have hpos : y1.toNat ≠ 0 := fun h0 => fieldOf_y_ne_zero h1 (by simp [fieldOf, h0])
    have hsum : y1.toNat + y2.toNat = primeP := Nat.eq_of_dvd_of_lt_two_mul (by omega) hdvd (by omega)
    omega

/-! ### The point instructions (R510 to R521) -/

theorem makePoint_of_range {x y : Word} (h : primeP ≤ x.toNat ∨ primeP ≤ y.toNat) :
    makePoint x y = .error .invalidEncoding := if_pos h

theorem makePoint_of_canonical {x y : Word} (hx : x.toNat < primeP) (hy : y.toNat < primeP) :
    makePoint x y = if validPt (.aff x y) = true then .ok (.aff x y) else .error .invalidPoint := by
  have hrange : ¬ (primeP ≤ x.toNat ∨ primeP ≤ y.toNat) := by omega
  rw [makePoint, if_neg hrange, ite_not]
  simp [validPt, onCurve, hx, hy]

theorem checkPt_of_valid {p : Point} (h : validPt p = true) : checkPt p = .ok () := if_pos h

theorem checkPt_of_invalid {p : Point} (h : validPt p ≠ true) : checkPt p = .error .invalidPoint := if_neg h

section Exec

variable {s : State}

/-- MKPT with valid sources answers what the check of its coordinates does. -/
theorem exec_mkpt {rs1 rs2 : VReg} (h1 : s.vValid rs1 = true) (h2 : s.vValid rs2 = true) (rd : QReg) :
    exec (.mkpt rd rs1 rs2) s = s.finish (.mkpt rd rs1 rs2)
      ((makePoint (s.vReg rs1) (s.vReg rs2)).map fun pt => (s.writeQ rd pt).advance) := by
  simp only [exec, execMkpt, readV_of_valid h1, readV_of_valid h2, except_ok_bind]
  cases makePoint (s.vReg rs1) (s.vReg rs2) <;> rfl

theorem exec_mkinf (rd : QReg) : exec (.mkinf rd) s = .next (s.writeQ rd .inf).advance := rfl

theorem exec_pmov {rs1 : QReg} (h1 : s.qValid rs1 = true) (rd : QReg) :
    exec (.pmov rd rs1) s = .next (s.writeQ rd (s.qReg rs1)).advance := by
  simp [exec, execPmov, readQ_of_valid h1]

theorem exec_ptinf {rs1 : QReg} (h1 : s.qValid rs1 = true) :
    exec (.ptinf rs1) s = .next (s.setF (infFlag (s.qReg rs1))).advance := by
  simp [exec, execPtinf, readQ_of_valid h1]

theorem exec_ptx {rs1 : QReg} {x y : Word} (h1 : s.qValid rs1 = true) (hp : s.qReg rs1 = .aff x y) (rd : VReg) :
    exec (.ptx rd rs1) s = .next (s.writeV rd x).advance := by
  simp [exec, execPtx, readQ_of_valid h1, hp, pointX]

theorem exec_pty {rs1 : QReg} {x y : Word} (h1 : s.qValid rs1 = true) (hp : s.qReg rs1 = .aff x y) (rd : VReg) :
    exec (.pty rd rs1) s = .next (s.writeV rd y).advance := by
  simp [exec, execPty, readQ_of_valid h1, hp, pointY]

theorem exec_pdbl {rs1 : QReg} (h1 : s.qValid rs1 = true) (rd : QReg) :
    exec (.pdbl rd rs1) s =
      if validPt (s.qReg rs1) = true then .next (s.writeQ rd (pointDouble (s.qReg rs1))).advance
      else .next (s.raise .invalidPoint (encode (.pdbl rd rs1))) := by
  simp only [exec, execPdbl, readQ_of_valid h1, except_ok_bind]
  split
  · rw [checkPt_of_valid ‹_›, except_ok_bind, finish_pure]
  · rw [checkPt_of_invalid ‹_›, except_error_bind, finish_error]

theorem exec_padd {rs1 rs2 : QReg} (h1 : s.qValid rs1 = true) (h2 : s.qValid rs2 = true) (rd : QReg) :
    exec (.padd rd rs1 rs2) s =
      if validPt (s.qReg rs1) = true ∧ validPt (s.qReg rs2) = true then
        .next (s.writeQ rd (pointAdd (s.qReg rs1) (s.qReg rs2))).advance
      else .next (s.raise .invalidPoint (encode (.padd rd rs1 rs2))) := by
  simp only [exec, execPadd, readQ_of_valid h1, readQ_of_valid h2, except_ok_bind]
  by_cases hp : validPt (s.qReg rs1) = true
  · rw [checkPt_of_valid hp, except_ok_bind]
    by_cases hq : validPt (s.qReg rs2) = true
    · rw [checkPt_of_valid hq, except_ok_bind, finish_pure, if_pos ⟨hp, hq⟩]
    · rw [checkPt_of_invalid hq, except_error_bind, finish_error, if_neg fun h => hq h.2]
  · rw [checkPt_of_invalid hp, except_error_bind, finish_error, if_neg fun h => hp h.1]

end Exec

/-! ### The obligations -/

/-- Settles O29: infinity and y = 0 by the order of the cases, else the tangent. -/
theorem doublingRule : Obligations.DoublingRule := ⟨rfl, fun _ => rfl, fun x _ hy => pointDouble_tangent x hy⟩

/-- Settles O30: the cases of one x by their order, else the chord. -/
theorem additionRule : Obligations.AdditionRule :=
  ⟨pointAdd_inf_left, pointAdd_inf_right, fun x _ _ h => pointAdd_vertical x h, pointAdd_self,
    fun _ y1 _ y2 hx => pointAdd_chord y1 y2 hx⟩

/-- Settles O31, from the curve equation: its two square roots, and no root at y = 0. -/
theorem groupLawOnValidPoints : Obligations.GroupLawOnValidPoints := by
  have := primeP_fact
  refine ⟨fun _ => pointDouble_valid, fun _ _ => pointAdd_valid, fun x y h => ?_, fun x1 y1 x2 y2 h1 h2 hne => ?_,
    fun _ _ _ => y_eq_or_negated⟩
  · have hy := fieldOf_y_ne_zero h
    exact ⟨fun h0 => hy (by simp [fieldOf, h0]), mul_ne_zero two_ne_zero_mod_P hy⟩
  · exact sub_ne_zero.2 (fieldOf_x_ne h1 h2 hne).symm

/-- Settles O32: two points of one x by cases, else by `chord_symm`. -/
theorem additionCommutes : Obligations.AdditionCommutes := by
  have := primeP_fact
  intro p q hp hq
  match p, q with
  | .inf, q => exact (pointAdd_inf_right q).symm
  | p, .inf => exact pointAdd_inf_right p
  | .aff x1 y1, .aff x2 y2 =>
    by_cases hx : x1 = x2
    · subst hx
      by_cases hy : y1 = y2
      · rw [hy]
      · rw [pointAdd_vertical x1 hy, pointAdd_vertical x1 (Ne.symm hy)]
    · have hne := fieldOf_x_ne hp hq hx
      obtain ⟨lam, x3, y3, hpq, hx3, hy3, hlam, hfx, hfy⟩ := pointAdd_chord y1 y2 hne
      obtain ⟨mu, x3', y3', hqp, hx3', hy3', hmu, hfx', hfy'⟩ := pointAdd_chord y2 y1 hne.symm
      obtain ⟨hxs, hys⟩ := chord_symm hne hlam hfx hfy hmu hfx' hfy'
      rw [hpq, hqp, fieldOf_inj hx3 hx3' hxs, fieldOf_inj hy3 hy3' hys]

/-- Settles O25: the three outcomes of `makePoint`. -/
theorem mkptChecksThenWrites : Obligations.MkptChecksThenWrites := by
  intro rd rs1 rs2 s h1 h2
  rw [exec_mkpt h1 h2]
  refine ⟨fun hrange => ?_, fun hx hy hoff => ?_, fun hx hy hon => ?_⟩
  · rw [makePoint_of_range hrange]; rfl
  · have hinvalid : validPt (.aff (s.vReg rs1) (s.vReg rs2)) ≠ true := fun hv => hoff (validPt_aff_iff.1 hv).2.2
    rw [makePoint_of_canonical hx hy, if_neg hinvalid]; rfl
  · rw [makePoint_of_canonical hx hy, if_pos (validPt_aff_iff.2 ⟨hx, hy, hon⟩)]; rfl

/-- Settles O26: the moves and reads have no check but the valid bit and, for PTX and PTY, the point at infinity. -/
theorem pointMovesAndReads : Obligations.PointMovesAndReads :=
  ⟨fun rd _ => exec_mkinf rd, fun rd _ _ h => exec_pmov h rd, fun _ _ h => exec_ptinf h,
    fun rd _ _ _ _ h hp => ⟨exec_ptx h hp rd, exec_pty h hp rd⟩⟩

/-- Settles O33, by the defensive check of each source. -/
theorem pointAdderResults : Obligations.PointAdderResults :=
  ⟨fun rd _ _ h => exec_pdbl h rd, fun rd _ _ _ h1 h2 => exec_padd h1 h2 rd⟩

end Sys2Proof.PointRules

/-! ## Scalar multiplication (42_scalar_mult)

The loop of R600 as a fold over the bits of the scalar, its values at the scalars 0 and 1 and at infinity, and what PMUL
does when its source registers are valid. -/

namespace Sys2Proof.ScalarRules

open Sys2Proof.Machine Sys2Proof.Laws Sys2Proof.PointRules

/-! ### The double-and-add loop (R600) -/

theorem ladder_eq_foldl (k : Nat) (p : Point) (n : Nat) (acc : Point) :
    ladder k p n acc = (List.range n).reverse.foldl (ladderStep k p) acc := by
  induction n generalizing acc with
  | zero => rfl
  | succ n ih => rw [ladder, ih, List.range_succ, List.reverse_concat, List.foldl_cons]

/-- A turn at a clear bit only doubles, so it keeps infinity. -/
theorem ladderStep_inf_of_clear {k i : Nat} (p : Point) (h : k.testBit i = false) : ladderStep k p .inf i = .inf := by
  simp [ladderStep, h, pointDouble]

/-- A turn at a set bit takes infinity to the point: the first set bit loads the accumulator. -/
theorem ladderStep_inf_of_set {k i : Nat} (p : Point) (h : k.testBit i = true) : ladderStep k p .inf i = p := by
  simp [ladderStep, h, pointDouble, pointAdd_inf_left]

/-- Turns that keep infinity one by one keep it together. -/
theorem ladder_inf {k : Nat} {p : Point} (h : ∀ i, ladderStep k p .inf i = .inf) (n : Nat) :
    ladder k p n .inf = .inf := by
  induction n with
  | zero => rfl
  | succ n ih => rw [ladder, h, ih]

theorem ladder_zero (p : Point) (n : Nat) : ladder 0 p n .inf = .inf :=
  ladder_inf (fun i => ladderStep_inf_of_clear p (Nat.zero_testBit i)) n

theorem ladder_one (p : Point) (n : Nat) : ladder 1 p (n + 1) .inf = p := by
  induction n with
  | zero => exact ladderStep_inf_of_set (k := 1) (i := 0) p rfl
  | succ n ih =>
    have hclear : Nat.testBit 1 (n + 1) = false := by simp [Nat.testBit_succ]
    rw [ladder, ladderStep_inf_of_clear p hclear, ih]

/-- Adding infinity changes nothing, so at either value of the bit the accumulator stays infinity. -/
theorem ladder_of_inf (k n : Nat) : ladder k .inf n .inf = .inf :=
  ladder_inf (fun _ => (Bool.eq_false_or_eq_true _).elim (ladderStep_inf_of_set _) (ladderStep_inf_of_clear _)) n

theorem scalarMul_of_mod_zero {k : Nat} (h : k % orderN = 0) (p : Point) : scalarMul k p = .inf := by
  rw [scalarMul, h, ladder_zero]

theorem scalarMul_of_mod_one {k : Nat} (h : k % orderN = 1) (p : Point) : scalarMul k p = p := by
  rw [scalarMul, h, ladder_one]

theorem scalarMul_inf (k : Nat) : scalarMul k .inf = .inf := ladder_of_inf _ _

/-! ### The instruction PMUL -/

theorem exec_pmul {rs1 : QReg} {rs2 : VReg} {s : State} (h1 : s.qValid rs1 = true) (h2 : s.vValid rs2 = true)
    (hp : validPt (s.qReg rs1) = true) (rd : QReg) :
    exec (.pmul rd rs1 rs2) s = .next (s.writeQ rd (scalarMul (s.vReg rs2).toNat (s.qReg rs1))).advance := by
  simp [exec, execPmul, readQ_of_valid h1, readV_of_valid h2, checkPt_of_valid hp]

/-! ### The obligations -/

/-- Settles O34: the loop is the fold of its turns. -/
theorem pmulDoubleAndAdd : Obligations.PmulDoubleAndAdd := by
  intro rd rs1 rs2 s h1 h2 hp
  rw [exec_pmul h1 h2 hp, scalarMul, ladder_eq_foldl]
  rfl

/-- Settles O35: 0 and N reduce to 0, 1 and N + 1 to 1. -/
theorem pmulCornerCases : Obligations.PmulCornerCases := by
  intro rd rs1 rs2 s h1 h2 hp
  rw [exec_pmul h1 h2 hp]
  refine ⟨fun hk => ?_, fun hk => ?_, fun hinf => ?_⟩
  · have hmod : (s.vReg rs2).toNat % orderN = 0 := by rcases hk with hk | hk <;> simp [hk]
    rw [scalarMul_of_mod_zero hmod]
  · have hmod : (s.vReg rs2).toNat % orderN = 1 := by rcases hk with hk | hk <;> rw [hk] <;> decide
    rw [scalarMul_of_mod_one hmod]
  · rw [hinf, scalarMul_inf]

end Sys2Proof.ScalarRules

/-! ## Data movement (43_data_movement)

What each instruction leaves when its source is valid, then the slot byte by byte through the big-endian rules. -/

namespace Sys2Proof.MoveRules

open Sys2Proof.Machine Sys2Proof.Laws Sys2Proof.MemoryRules

/-! ### The state a data movement leaves -/

section Exec

variable {rs1 : VReg} {s : State}

theorem exec_ldv (rd : VReg) (slot : BitVec 7) (s : State) :
    exec (.ldv rd slot) s = .next (s.writeV rd (be256 (s.memRead (slotAddr slot) 32))).advance := rfl

theorem exec_stv (h1 : s.vValid rs1 = true) (slot : BitVec 7) :
    exec (.stv rs1 slot) s = .next (s.memWrite (slotAddr slot) (bytesBe (s.vReg rs1))).advance := by
  simp [exec, execStv, readV_of_valid h1]

theorem exec_ldi (rd : VReg) (imm : BitVec 12) (s : State) :
    exec (.ldi rd imm) s = .next (s.writeV rd (immValue imm)).advance := rfl

theorem exec_ldc {cid : BitVec 4} {x : Word} (hx : s.constant cid = .ok x) (rd : VReg) :
    exec (.ldc rd cid) s = .next (s.writeV rd x).advance := by
  simp [exec, execLdc, hx]

theorem exec_mov (h1 : s.vValid rs1 = true) (rd : VReg) :
    exec (.mov rd rs1) s = .next (s.writeV rd (s.vReg rs1)).advance := by
  simp [exec, execMov, readV_of_valid h1]

theorem exec_setm (h1 : s.vValid rs1 = true) : exec (.setm rs1) s = .next (s.writeM (s.vReg rs1)).advance := by
  simp [exec, execSetm, readV_of_valid h1]

end Exec

/-! ### The constant of a cid (R703) -/

theorem constant_rom (s : State) {cid : BitVec 4} (h : cid.toNat ≤ 5) : s.constant cid = .ok (rom cid.toNat) := if_pos h

theorem constant_m {s : State} (h : s.validM = true) : s.constant 6#4 = .ok s.m := readM_of_valid h

theorem exec_ldc_rom {cid : BitVec 4} (h : cid.toNat ≤ 5) (rd : VReg) (s : State) :
    exec (.ldc rd cid) s = .next (s.writeV rd (rom cid.toNat)).advance := exec_ldc (constant_rom s h) rd

/-! ### The bytes of a slot (R204) -/

/-- Byte `k` of the value read from 32 bytes of the data RAM, counted from the top, is the byte at offset `k`. -/
theorem byte_of_be256_memRead (s : State) (a : Nat) {k : Nat} (hk : k < 32) :
    (be256 (s.memRead a 32)).toNat / 256 ^ (31 - k) % 256 = (s.readByte (a + k)).toNat := by
  have hlen := memRead_length 32 s a
  have hbyte := byte_of_beValue _ 0 k (memRead_getElem? 32 s a k hk)
  rwa [hlen, ← be256_toNat hlen] at hbyte

/-- A byte of a stored value: the byte at offset `k` is byte `k` of the value, counted from the top. -/
theorem readByte_memWrite_bytesBe (s : State) (a : Nat) (x : Word) {k : Nat} (hk : k < 32) :
    ((s.memWrite a (bytesBe x)).readByte (a + k)).toNat = x.toNat / 256 ^ (31 - k) % 256 := by
  rw [readByte_memWrite, if_pos (Nat.le_add_right _ _), Nat.add_sub_cancel_left, List.getD_eq_getElem?_getD, bytesBe,
    beBytes_getElem? 32 _ k hk, Option.getD_some, BitVec.toNat_ofNat]

@[simp] theorem readByte_advance (s : State) (a : Nat) : s.advance.readByte a = s.readByte a := readByte_congr rfl rfl a

/-! ### The obligations -/

/-- Settles O11: the value is `be256` of the slot, whose bytes are `byte_of_be256_memRead`. -/
theorem ldvLoadsBigEndian : Obligations.LdvLoadsBigEndian :=
  fun rd slot s => ⟨_, exec_ldv rd slot s, fun _ hk => byte_of_be256_memRead s (slotAddr slot) hk⟩

/-- Settles O12: the bytes inside the slot, those outside, and `memWrite_eq` for the rest of the state. -/
theorem stvStoresBigEndian : Obligations.StvStoresBigEndian := by
  intro rs1 slot s h1
  refine ⟨_, exec_stv h1 slot, fun k hk => ?_, fun a ha => ?_, ?_, ?_⟩
  · rw [readByte_advance]
    exact readByte_memWrite_bytesBe s (slotAddr slot) (s.vReg rs1) hk
  · rw [readByte_advance]
    exact readByte_memWrite_outside (by rwa [bytesBe_length])
  · exact congrArg (· + 1#9) (memWrite_pc _ s _)
  · rw [memWrite_eq]
    rfl

/-- Settles O13: the immediate is `zext_256`, the two copies are what they leave. -/
theorem immediateCopyAndModulus : Obligations.ImmediateCopyAndModulus := by
  refine ⟨fun rd imm s => ?_, fun rd _ _ h1 => exec_mov h1 rd, fun _ _ h1 => exec_setm h1⟩
  rw [exec_ldi, immValue, BitVec.ofNat_toNat]

/-- Settles O14: cid 0 to 5 from the ROM, cid 6 from M. -/
theorem ldcConstants : Obligations.LdcConstants := by
  intro rd s
  have hrom {cid : BitVec 4} (h : cid.toNat ≤ 5) := exec_ldc_rom h rd s
  exact ⟨hrom (cid := 0#4) (by decide), hrom (cid := 1#4) (by decide), hrom (cid := 2#4) (by decide),
    hrom (cid := 3#4) (by decide), hrom (cid := 4#4) (by decide), hrom (cid := 5#4) (by decide),
    fun hm => exec_ldc (constant_m hm) rd⟩

end Sys2Proof.MoveRules

/-! ## Control transfer (44_control)

The next state of each instruction, a branch by the value of F; none of them can raise an exception. -/

namespace Sys2Proof.ControlRules

open Sys2Proof.Machine

theorem exec_nop (s : State) : exec .nop s = .next s.advance := rfl

theorem exec_halt (s : State) : exec .halt s = .next s.halted := rfl

theorem exec_j (target : BitVec 8) (s : State) : exec (.j target) s = .next (s.jump target) := rfl

section Branch

variable {s : State} (target : BitVec 8)

theorem exec_bf_of_set (hf : s.f = true) : exec (.bf target) s = .next (s.jump target) :=
  congrArg Host.Outcome.next (if_pos hf)

theorem exec_bf_of_clear (hf : s.f = false) : exec (.bf target) s = .next s.advance :=
  congrArg Host.Outcome.next (if_neg (Bool.eq_false_iff.1 hf))

theorem exec_bnf_of_set (hf : s.f = true) : exec (.bnf target) s = .next s.advance :=
  congrArg Host.Outcome.next (if_pos hf)

theorem exec_bnf_of_clear (hf : s.f = false) : exec (.bnf target) s = .next (s.jump target) :=
  congrArg Host.Outcome.next (if_neg (Bool.eq_false_iff.1 hf))

end Branch

/-- Settles O10: NOP, HALT and J by their equations, the branches at each value of F. -/
theorem controlTransferResults : Obligations.ControlTransferResults := by
  intro s target
  refine ⟨exec_nop s, exec_halt s, exec_j target s, ?_⟩
  rcases Bool.eq_false_or_eq_true s.f with hf | hf
  · rw [if_pos hf, if_neg (by simp [hf])]
    exact ⟨exec_bf_of_set target hf, exec_bnf_of_set target hf⟩
  · rw [if_neg (Bool.eq_false_iff.1 hf), if_pos hf]
    exact ⟨exec_bf_of_clear target hf, exec_bnf_of_clear target hf⟩

end Sys2Proof.ControlRules

/-! ## Taking an exception (60_exceptions R901, R903, R920)

A core turn that ends in FAULT is one exception entry; pc reaches 256 by moving on from 255 alone. -/

namespace Sys2Proof.ExceptionRules

open Sys2Proof.Machine Sys2Proof.Laws Sys2Proof.StateRules Sys2Proof.EncodingRules

/-! ### The fetch past the end (R903) -/

theorem step_of_fetchFault {s : State} (hm : s.nextMove = .core) (hb : s.runState = .busy) (hp : 256 ≤ s.pc.toNat) :
    step s = .next (s.popMove.raise .fetch 0#32).noteReached := by
  have hnot : ¬ s.popMove.runState ≠ .busy := not_not.2 hb
  rw [step, hm]
  exact (if_neg hnot).trans (if_pos hp)

/-- A command-RAM index is not 256. -/
theorem setWidth_ne_256 (x : BitVec 8) : x.setWidth 9 ≠ 256#9 := by
  intro h
  have hlt := x.isLt
  have hval := congrArg BitVec.toNat h
  simp at hval
  omega

/-- An instruction that brings pc to 256 moved on from 255. -/
theorem effect_reaches_256 {i : Instr} {s t : State} (h : Effect i s t) (ht : t.pc = 256#9) (hs : s.pc ≠ 256#9) :
    s.pc = 255#9 := by
  have hnext (hpc : s.pc + 1#9 = 256#9) : s.pc = 255#9 := by bv_omega
  cases h with
  | raised | ended => exact absurd ht hs
  | jumped target => exact absurd ht (setWidth_ne_256 target)
  | stored => exact hnext (by simpa using ht)
  | _ => exact hnext ht

/-- No host transaction brings pc to 256. -/
theorem hostEffect_keeps_256 {s t : State} {x : Transaction} (h : HostEffect s x t) (ht : t.pc = 256#9) :
    s.pc = 256#9 := by
  cases h with
  | softReset => exact absurd ht (by decide : (0#9 : BitVec 9) ≠ 256#9)
  | go => exact absurd ht (setWidth_ne_256 _)
  | data => simpa using ht
  | _ => exact ht

/-- Settles O7, from `step_of_fetchFault`; of the ways a step can end only an instruction brings pc to 256. -/
theorem fetchPastEnd : Obligations.FetchPastEnd := by
  refine ⟨fun s hm hb hp => ?_, fun s t h ht hs => ?_⟩
  · exact ⟨_, step_of_fetchFault hm hb (by simp [hp]), by simp, by simp [Exc.code], by simp [hp], by simp⟩
  · cases effect_of_step h with
    | hardReset => exact absurd ht (by decide : (0#9 : BitVec 9) ≠ 256#9)
    | host x t _ he => exact absurd (hostEffect_keeps_256 he ht) hs
    | rested => exact absurd ht hs
    | fetchFault | illegal => exact absurd (by simpa using ht) hs
    | executed i u hm hb _ _ hx =>
      have hpc := effect_reaches_256 (s := s.popMove) (effect_of_exec hx) (by simpa using ht) hs
      exact ⟨hpc, hb, hm⟩

/-! ### The entry (R920) -/

/-- The word a core turn fetches; from pc = 256 on there is none, and 0 is recorded (R903). -/
def fetchedWord (s : State) : CmdWord := if s.pc.toNat < 256 then s.cmdWord s.pc.toNat else 0#32

theorem fetchedWord_of_lt {s : State} (hp : s.pc.toNat < 256) : fetchedWord s = s.cmdWord s.pc.toNat := if_pos hp

theorem fetchedWord_of_ge {s : State} (hp : 256 ≤ s.pc.toNat) : fetchedWord s = 0#32 := if_neg (not_lt.2 hp)

/-- A core turn of a run that ends in FAULT is the entry of one exception with the fetched word. -/
theorem entry_of_step {s t : State} (hm : s.nextMove = .core) (hb : s.runState = .busy) (h : step s = .next t)
    (ht : t.runState = .fault) : ∃ e, t = (s.popMove.raise e (fetchedWord s)).noteReached := by
  cases effect_of_step h with
  | hardReset hm' | host _ _ hm' => rw [hm] at hm'; cases hm'
  | rested _ hb' => exact absurd hb hb'
  | fetchFault _ _ hp => exact ⟨_, by rw [fetchedWord_of_ge hp]⟩
  | illegal _ _ _ hp => exact ⟨_, by rw [fetchedWord_of_lt hp]⟩
  | executed i u _ _ hp hd hx =>
    rw [noteReached_runState] at ht
    rcases effect_runControl (effect_of_exec hx) with hsame | ⟨-, rfl⟩ | ⟨e, rfl⟩
    · rw [hsame.runState, popMove_runState, hb] at ht; cases ht
    · cases ht
    · exact ⟨e, by rw [fetchedWord_of_lt hp, (decodeEncodeInverse.2 _ _ hd).2]⟩

/-- With the five fields and the model's own put back, the state before the entry. -/
theorem restore_entry (s : State) (e : Exc) (w : CmdWord) :
    { (s.popMove.raise e w).noteReached with
      cause := s.cause, faultPc := s.faultPc, faultInstr := s.faultInstr, runState := s.runState,
      irqPending := s.irqPending, schedule := s.schedule, stream := s.stream, trail := s.trail } = s := by
  rw [noteReached_eq]; rfl

/-- Settles O44: the entry by `entry_of_step`, what leaves FAULT by `flow_of_step`. -/
theorem exceptionEntry : Obligations.ExceptionEntry := by
  refine ⟨fun s t hm hb h ht => ?_, fun s t hs h ht => ?_⟩
  · obtain ⟨e, rfl⟩ := entry_of_step hm hb h ht
    exact ⟨⟨e, by simp, by simp [fetchedWord]⟩, by simp, by simp, restore_entry s e _⟩
  · have hnb : s.runState ≠ .busy := by rw [hs]; decide
    cases flow_of_step h with
    | reset hr => exact .inl hr
    | started d hm h0 _ hbusy => exact .inr ⟨hbusy, d, hm, h0⟩
    | kept _ hk => exact absurd (hk.trans hs) ht
    | wentOn hb | halted _ hb | raised _ hb => exact absurd hb hnb

/-- Settles O45: the codes by their table, their range by `exc_code_range`. -/
theorem exceptionCodes : Obligations.ExceptionCodes :=
  ⟨⟨rfl, rfl, rfl, rfl, rfl, rfl, rfl, rfl⟩, fun _ e _ => exc_code_range e⟩

end Sys2Proof.ExceptionRules

/-! ## The interrupt (60_exceptions R930 to R932) -/

namespace Sys2Proof.ExceptionRules

open Sys2Proof.Machine Sys2Proof.Laws Sys2Proof.StateRules

/-- The ways a step can move IRQ_PENDING. -/
inductive IrqFlow (s t : State) : Prop where
  /-- a reset -/
  | reset (hm : s.nextMove.isReset = true) (ht : AtReset t)
  /-- a write of STATUS with bit 3 -/
  | cleared (d : CmdWord) (hm : s.nextMove = .bus (.write 0x008#14 .four d)) (h3 : d.getLsbD 3 = true)
      (hs : t.runState = s.runState) (ht : t.irqPending = false)
  /-- the end of a run -/
  | ended (hb : s.runState = .busy) (hs : t.runState = .done ∨ t.runState = .fault) (ht : t.irqPending = true)
  /-- anything else -/
  | kept (hs : s.runState = .busy → t.runState = .busy) (ht : t.irqPending = s.irqPending)

theorem irqFlow_of_hostEffect {s t : State} {x : Transaction} (hm : s.nextMove = .bus x)
    (h : HostEffect s.popMove x t) : IrqFlow s t := by
  cases h with
  | softReset d hd => exact .reset (by rw [hm, ctrlWrite_isReset, hd]) (atReset_softReset _ _)
  | irqCleared d h3 => exact .cleared d hm h3 rfl rfl
  | go => exact .kept (fun _ => rfl) rfl
  | data => exact .kept (fun hb => by simpa using hb) (by simp)
  | _ => exact .kept id rfl

/-- The inversion of `step` for IRQ_PENDING. -/
theorem irqFlow_of_step {s t : State} (h : step s = .next t) : IrqFlow s t := by
  cases effect_of_step h with
  | hardReset hm => exact .reset (by rw [hm]; rfl) (atReset_hardReset _)
  | host x t hm he => exact irqFlow_of_hostEffect hm he
  | rested => exact .kept id rfl
  | fetchFault _ hb | illegal _ _ hb => exact .ended hb (.inr (by simp)) (by simp)
  | executed i u _ hb _ _ hx =>
    rcases effect_runControl (effect_of_exec hx) with hsame | ⟨-, rfl⟩ | ⟨e, rfl⟩
    · exact .kept (fun _ => by simp [hsame.runState, hb]) (by simp [hsame.irqPending])
    · exact .ended hb (.inl (by simp)) (by simp)
    · exact .ended hb (.inr (by simp)) (by simp)

theorem irqPending_atReset {t : State} (h : AtReset t) : t.irqPending = false := h.runControl.irqPending

theorem transact_statusWrite (s : State) (d : CmdWord) :
    s.transact (.write 0x008#14 .four d) = { s.writeStatus d with resp := some ⟨0#32, false⟩ } :=
  transact_write s d rfl

theorem writeStatus_eq (s : State) (d : CmdWord) :
    s.writeStatus d = { s with irqPending := s.irqPending && !d.getLsbD 3 } := by
  unfold State.writeStatus
  cases d.getLsbD 3 with
  | true => rw [if_pos rfl, Bool.not_true, Bool.and_false]
  | false => rw [if_neg Bool.false_ne_true, Bool.not_false, Bool.and_true]

/-- A CTRL write without SOFT_RESET keeps IRQ_PENDING, whether or not it starts a run (R932). -/
theorem writeCtrl_irqPending (s : State) {d : CmdWord} (h2 : d.getLsbD 2 = false) :
    (s.writeCtrl d).irqPending = s.irqPending := by
  by_cases hgo : d.getLsbD 0 = true ∧ s.runState ≠ .busy
  · rw [writeCtrl_go s h2 hgo.1 hgo.2]; rfl
  · have hie : d.getLsbD 0 = false ∨ s.runState = .busy := by
      rwa [not_and_or, Bool.not_eq_true, not_not] at hgo
    rw [writeCtrl_ie s h2 hie]

/-- Settles O46, from `irqFlow_of_step`. -/
theorem interruptRaised : Obligations.InterruptRaised := by
  refine ⟨fun _ => rfl, rfl, fun s t h hr => ?_, fun s t h hb ht => ?_, fun s t h hs ht => ?_⟩
  · rw [State.irq, irqPending_atReset (atReset_of_step h hr), Bool.false_and]
  · have hnb : t.runState ≠ .busy := by rcases ht with ht | ht <;> rw [ht] <;> decide
    cases irqFlow_of_step h with
    | reset _ hr => rw [hr.runControl.runState] at ht; rcases ht with ht | ht <;> cases ht
    | cleared _ _ _ hk => exact absurd (hk.trans hb) hnb
    | ended _ _ hirq => exact hirq
    | kept hk => exact absurd (hk hb) hnb
  · cases irqFlow_of_step h with
    | reset _ hr => rw [irqPending_atReset hr] at ht; cases ht
    | cleared _ _ _ _ hirq => rw [hirq] at ht; cases ht
    | ended hb hend => exact ⟨hb, hend⟩
    | kept _ hk => rw [hk, hs] at ht; cases ht

/-- Settles O47, from `irqFlow_of_step` and the two register writes. -/
theorem interruptPendingCleared : Obligations.InterruptPendingCleared := by
  refine ⟨fun s t h hs ht => ?_, fun s d => ?_, fun s d h2 => ?_⟩
  · cases irqFlow_of_step h with
    | reset hr => exact .inl hr
    | cleared d hm h3 => exact .inr ⟨d, hm, h3⟩
    | ended _ _ hirq => rw [hirq] at ht; cases ht
    | kept _ hk => rw [hk, hs] at ht; cases ht
  · rw [transact_statusWrite, writeStatus_eq]
  · rw [transact_ctrlWrite]
    exact writeCtrl_irqPending s h2

end Sys2Proof.ExceptionRules

/-! ## What makes an instruction raise (60_exceptions R902 to R910)

Every instruction reads its sources, then checks, then writes; so it completes, or raises what its first failing read or
check says. `verdict_exec` states this for all of them at once, and each "raised by nothing else" follows from it. -/

namespace Sys2Proof.ExceptionRules

open Sys2Proof.Machine Sys2Proof.Laws Sys2Proof.PointRules Sys2Proof.MoveRules Sys2Proof.ControlRules

/-- An instruction names an invalid V or Q register as a source, or reads M while it is invalid (R904). -/
def ReadsUninit (i : Instr) (s : State) : Prop :=
  (∃ r ∈ i.vSources, s.vValid r = false) ∨ (∃ r ∈ i.qSources, s.qValid r = false) ∨
    (i.readsM = true ∧ s.validM = false)

/-- The checks an instruction makes on what it has read, each with its failing operands (R905 to R909). -/
inductive CheckFails (i : Instr) (s : State) : Exc → Prop where
  /-- MMUL or MINV by M, even or below 3 -/
  | modulus (hi : (∃ rd rs1 rs2, i = .mmul 2#2 rd rs1 rs2) ∨ ∃ rd rs1, i = .minv 2#2 rd rs1)
      (hm : s.m.toNat % 2 = 0 ∨ s.m.toNat < 3) : CheckFails i s .modulus
  /-- MINV without an inverse -/
  | noInverse (hi : ∃ ms rd rs1, i = .minv ms rd rs1) : CheckFails i s .noInverse
  /-- MKPT with a coordinate not below P -/
  | encoding (hi : ∃ rd rs1 rs2, i = .mkpt rd rs1 rs2) : CheckFails i s .invalidEncoding
  /-- MKPT off the curve -/
  | offCurve (hi : ∃ rd rs1 rs2, i = .mkpt rd rs1 rs2 ∧ onCurve (s.vReg rs1).toNat (s.vReg rs2).toNat = false) :
      CheckFails i s .invalidPoint
  /-- the defensive check of PDBL, PADD and PMUL -/
  | badSource
      (hi : (∃ rd rs1, i = .pdbl rd rs1) ∨ (∃ rd rs1 rs2, i = .padd rd rs1 rs2) ∨ ∃ rd rs1 rs2, i = .pmul rd rs1 rs2)
      (hr : ∃ r ∈ i.qSources, validPt (s.qReg r) = false) : CheckFails i s .invalidPoint
  /-- PTX or PTY of infinity -/
  | infinity (hi : ∃ rd rs1, (i = .ptx rd rs1 ∨ i = .pty rd rs1) ∧ s.qReg rs1 = .inf) : CheckFails i s .infinity

/-- What makes an instruction raise an exception, by the priority of R910: the checks come after all reads. -/
inductive RaiseCause (i : Instr) (s : State) : Exc → Prop where
  /-- it has no meaning (log 9) -/
  | illFormed (hi : ¬ i.WellFormed = true) : RaiseCause i s .illegal
  /-- a source is not valid -/
  | uninit (hr : ReadsUninit i s) : RaiseCause i s .uninit
  /-- its sources are valid and a check fails -/
  | check {e : Exc} (hr : ¬ ReadsUninit i s) (he : CheckFails i s e) : RaiseCause i s e

/-- Every answer of an instruction, with its reason. -/
inductive Verdict (i : Instr) (s : State) : Host.Outcome State Fault Refusal → Prop where
  /-- it completes and moves on -/
  | completed {t : State} (hr : ¬ ReadsUninit i s) (hpc : t.pc = s.pc + 1#9) : Verdict i s (.next t)
  /-- it jumps -/
  | jumped (target : BitVec 8) (hi : i = .j target ∨ i = .bf target ∨ i = .bnf target) :
      Verdict i s (.next (s.jump target))
  /-- it ends the run -/
  | ended (hi : i = .halt) : Verdict i s (.next s.halted)
  /-- it raises an exception -/
  | raised {e : Exc} (he : RaiseCause i s e) : Verdict i s (.next (s.raise e (encode i)))

/-! ### One rule for each read and each check -/

section Rules

variable {α : Type} {i : Instr} {s : State} {f : α → Except Exc State}

/-- A part of an instruction either raises what is explained, or hands on its value. -/
theorem verdict_bind {x : Except Exc α} (hx : ∀ e, x = .error e → RaiseCause i s e)
    (hf : ∀ a, x = .ok a → Verdict i s (s.finish i (f a))) : Verdict i s (s.finish i (x >>= f)) := by
  cases x with
  | ok a => exact hf a rfl
  | error e => exact .raised (hx e rfl)

theorem verdict_readV {r : VReg} {f : Word → Except Exc State} (hr : r ∈ i.vSources)
    (hf : s.vValid r = true → Verdict i s (s.finish i (f (s.vReg r)))) :
    Verdict i s (s.finish i (s.readV r >>= f)) := by
  cases hv : s.vValid r with
  | true => rw [readV_of_valid hv]; exact hf hv
  | false => rw [readV_of_invalid hv]; exact .raised (.uninit (.inl ⟨r, hr, hv⟩))

theorem verdict_readQ {r : QReg} {f : Point → Except Exc State} (hr : r ∈ i.qSources)
    (hf : s.qValid r = true → Verdict i s (s.finish i (f (s.qReg r)))) :
    Verdict i s (s.finish i (s.readQ r >>= f)) := by
  cases hv : s.qValid r with
  | true => rw [readQ_of_valid hv]; exact hf hv
  | false => rw [readQ_of_invalid hv]; exact .raised (.uninit (.inr (.inl ⟨r, hr, hv⟩)))

theorem verdict_readM {f : Word → Except Exc State} (hr : i.readsM = true)
    (hf : s.validM = true → Verdict i s (s.finish i (f s.m))) : Verdict i s (s.finish i (s.readM >>= f)) := by
  cases hv : s.validM with
  | true => rw [readM_of_valid hv]; exact hf hv
  | false => rw [readM_of_invalid hv]; exact .raised (.uninit (.inr (.inr ⟨hr, hv⟩)))

/-- The modulus of `ms` (R122): only ms = 2 reads M, and ms = 3 is ill formed. -/
theorem verdict_modval {ms : BitVec 2} {f : Word → Except Exc State} (hwf : i.WellFormed = decide (ms ≠ 3#2))
    (hm : i.readsM = decide (ms = 2#2))
    (hf : ∀ m, (ms = 2#2 → s.validM = true ∧ m = s.m) → Verdict i s (s.finish i (f m))) :
    Verdict i s (s.finish i (s.modval ms >>= f)) := by
  have hms : ∀ x : BitVec 2, x = 0#2 ∨ x = 1#2 ∨ x = 2#2 ∨ x = 3#2 := by decide
  rcases hms ms with rfl | rfl | rfl | rfl
  · exact hf _ fun h => absurd h (by decide)
  · exact hf _ fun h => absurd h (by decide)
  · exact verdict_readM (by simpa using hm) fun hv => hf s.m fun _ => ⟨hv, rfl⟩
  · exact .raised (.illFormed (by simp [hwf]))

/-- A check, all sources being valid. -/
theorem verdict_check {x : Except Exc α} (hr : ¬ ReadsUninit i s) (hx : ∀ e, x = .error e → CheckFails i s e)
    (hf : ∀ a, x = .ok a → Verdict i s (s.finish i (f a))) : Verdict i s (s.finish i (x >>= f)) :=
  verdict_bind (fun e he => .check hr (hx e he)) hf

end Rules

/-! ### The reads of an instruction, by the shape of its sources -/

section Sources

variable {i : Instr} {s : State}

theorem not_readsUninit_of_none (hv : i.vSources = []) (hq : i.qSources = []) (hm : i.readsM = false) :
    ¬ ReadsUninit i s := by
  simp [ReadsUninit, hv, hq, hm]

theorem verdict_v {a : VReg} {f : Word → Except Exc State} (hv : i.vSources = [a]) (hq : i.qSources = [])
    (hm : i.readsM = false) (hf : ¬ ReadsUninit i s → Verdict i s (s.finish i (f (s.vReg a)))) :
    Verdict i s (s.finish i (s.readV a >>= f)) :=
  verdict_readV (by simp [hv]) fun ha => hf (by simp [ReadsUninit, hv, hq, hm, ha])

theorem verdict_v_v {a b : VReg} {f : Word → Word → Except Exc State} (hv : i.vSources = [a, b])
    (hq : i.qSources = []) (hm : i.readsM = false)
    (hf : ¬ ReadsUninit i s → Verdict i s (s.finish i (f (s.vReg a) (s.vReg b)))) :
    Verdict i s (s.finish i (s.readV a >>= fun x => s.readV b >>= f x)) :=
  verdict_readV (by simp [hv]) fun ha => verdict_readV (by simp [hv]) fun hb =>
    hf (by simp [ReadsUninit, hv, hq, hm, ha, hb])

theorem verdict_m_v {ms : BitVec 2} {a : VReg} {f : Word → Word → Except Exc State} (hv : i.vSources = [a])
    (hq : i.qSources = []) (hwf : i.WellFormed = decide (ms ≠ 3#2)) (hm : i.readsM = decide (ms = 2#2))
    (hf : ¬ ReadsUninit i s → ∀ m, (ms = 2#2 → m = s.m) → Verdict i s (s.finish i (f m (s.vReg a)))) :
    Verdict i s (s.finish i (s.modval ms >>= fun m => s.readV a >>= f m)) :=
  verdict_modval hwf hm fun m hms => verdict_readV (by simp [hv]) fun ha =>
    hf (by simpa [ReadsUninit, hv, hq, hm, ha] using fun h => (hms h).1) m fun h => (hms h).2

theorem verdict_m_v_v {ms : BitVec 2} {a b : VReg} {f : Word → Word → Word → Except Exc State}
    (hv : i.vSources = [a, b]) (hq : i.qSources = []) (hwf : i.WellFormed = decide (ms ≠ 3#2))
    (hm : i.readsM = decide (ms = 2#2))
    (hf : ¬ ReadsUninit i s → ∀ m, (ms = 2#2 → m = s.m) → Verdict i s (s.finish i (f m (s.vReg a) (s.vReg b)))) :
    Verdict i s (s.finish i (s.modval ms >>= fun m => s.readV a >>= fun x => s.readV b >>= f m x)) :=
  verdict_modval hwf hm fun m hms => verdict_readV (by simp [hv]) fun ha => verdict_readV (by simp [hv]) fun hb =>
    hf (by simpa [ReadsUninit, hv, hq, hm, ha, hb] using fun h => (hms h).1) m fun h => (hms h).2

theorem verdict_q {a : QReg} {f : Point → Except Exc State} (hv : i.vSources = []) (hq : i.qSources = [a])
    (hm : i.readsM = false) (hf : ¬ ReadsUninit i s → Verdict i s (s.finish i (f (s.qReg a)))) :
    Verdict i s (s.finish i (s.readQ a >>= f)) :=
  verdict_readQ (by simp [hq]) fun ha => hf (by simp [ReadsUninit, hv, hq, hm, ha])

theorem verdict_q_q {a b : QReg} {f : Point → Point → Except Exc State} (hv : i.vSources = [])
    (hq : i.qSources = [a, b]) (hm : i.readsM = false)
    (hf : ¬ ReadsUninit i s → Verdict i s (s.finish i (f (s.qReg a) (s.qReg b)))) :
    Verdict i s (s.finish i (s.readQ a >>= fun p => s.readQ b >>= f p)) :=
  verdict_readQ (by simp [hq]) fun ha => verdict_readQ (by simp [hq]) fun hb =>
    hf (by simp [ReadsUninit, hv, hq, hm, ha, hb])

theorem verdict_q_v {a : QReg} {b : VReg} {f : Point → Word → Except Exc State} (hv : i.vSources = [b])
    (hq : i.qSources = [a]) (hm : i.readsM = false)
    (hf : ¬ ReadsUninit i s → Verdict i s (s.finish i (f (s.qReg a) (s.vReg b)))) :
    Verdict i s (s.finish i (s.readQ a >>= fun p => s.readV b >>= f p)) :=
  verdict_readQ (by simp [hq]) fun ha => verdict_readV (by simp [hv]) fun hb =>
    hf (by simp [ReadsUninit, hv, hq, hm, ha, hb])

end Sources

theorem exec_ldc_illFormed {cid : BitVec 4} (h : 6 < cid.toNat) (rd : VReg) (s : State) :
    exec (.ldc rd cid) s = .next (s.raise .illegal (encode (.ldc rd cid))) := by
  have hc : s.constant cid = .error .illegal := by
    rw [State.constant, if_neg (by omega), if_neg (by omega)]
  simp [exec, execLdc, hc]

/-- LDC (R703): only cid 6 reads M, and a cid above 6 is ill formed. -/
theorem verdict_ldc (rd : VReg) (cid : BitVec 4) (s : State) : Verdict (.ldc rd cid) s (exec (.ldc rd cid) s) := by
  rcases lt_trichotomy cid.toNat 6 with hlt | heq | hgt
  · have hne : cid ≠ 6#4 := by rintro rfl; exact absurd hlt (by decide)
    rw [exec_ldc_rom (Nat.le_of_lt_succ hlt)]
    exact .completed (not_readsUninit_of_none rfl rfl (decide_eq_false hne)) rfl
  · obtain rfl : cid = 6#4 := BitVec.eq_of_toNat_eq heq
    exact verdict_readM rfl fun hm => .completed (by simp [ReadsUninit, Instr.vSources, Instr.qSources, hm]) rfl
  · rw [exec_ldc_illFormed hgt]
    exact .raised (.illFormed (by simpa [Instr.WellFormed, BitVec.le_def] using hgt))

/-! ### The failing operands of each check -/

theorem modcheck_eq_error {ms : BitVec 2} {m : Word} {e : Exc} (h : modcheck ms m = .error e) :
    e = .modulus ∧ ms = 2#2 ∧ (m.toNat % 2 = 0 ∨ m.toNat < 3) := by
  unfold modcheck at h
  split at h
  · rename_i hbad
    cases h
    exact ⟨rfl, hbad⟩
  · cases h

theorem minvValue_eq_error {a m : Word} {e : Exc} (h : minvValue a m = .error e) : e = .noInverse := by
  unfold minvValue at h
  split at h
  · cases h
  · cases h; rfl

theorem makePoint_eq_error {x y : Word} {e : Exc} (h : makePoint x y = .error e) :
    (e = .invalidEncoding ∧ (primeP ≤ x.toNat ∨ primeP ≤ y.toNat)) ∨
      (e = .invalidPoint ∧ onCurve x.toNat y.toNat = false) := by
  by_cases hrange : primeP ≤ x.toNat ∨ primeP ≤ y.toNat
  · rw [makePoint_of_range hrange] at h
    cases h
    exact .inl ⟨rfl, hrange⟩
  · rw [makePoint_of_canonical (by omega) (by omega)] at h
    split at h
    · cases h
    · rename_i hoff
      cases h
      exact .inr ⟨rfl, Bool.eq_false_iff.2 hoff⟩

theorem checkPt_eq_error {p : Point} {e : Exc} (h : checkPt p = .error e) : e = .invalidPoint ∧ validPt p = false := by
  cases hp : validPt p with
  | true => rw [checkPt_of_valid hp] at h; cases h
  | false => rw [checkPt_of_invalid (by simp [hp])] at h; cases h; exact ⟨rfl, rfl⟩

theorem pointX_eq_error {p : Point} {e : Exc} (h : pointX p = .error e) : e = .infinity ∧ p = .inf := by
  cases p <;> cases h
  exact ⟨rfl, rfl⟩

theorem pointY_eq_error {p : Point} {e : Exc} (h : pointY p = .error e) : e = .infinity ∧ p = .inf := by
  cases p <;> cases h
  exact ⟨rfl, rfl⟩

section Checks

variable {i : Instr} {s : State} {e : Exc}

theorem checkFails_modcheck {ms : BitVec 2} {m : Word} (hm : ms = 2#2 → m = s.m)
    (hi : (∃ rd rs1 rs2, i = .mmul ms rd rs1 rs2) ∨ ∃ rd rs1, i = .minv ms rd rs1) (h : modcheck ms m = .error e) :
    CheckFails i s e := by
  obtain ⟨rfl, rfl, hbad⟩ := modcheck_eq_error h
  exact .modulus hi (hm rfl ▸ hbad)

theorem checkFails_makePoint {rd : QReg} {rs1 rs2 : VReg} (h : makePoint (s.vReg rs1) (s.vReg rs2) = .error e) :
    CheckFails (.mkpt rd rs1 rs2) s e := by
  rcases makePoint_eq_error h with ⟨rfl, -⟩ | ⟨rfl, hoff⟩
  · exact .encoding ⟨rd, rs1, rs2, rfl⟩
  · exact .offCurve ⟨rd, rs1, rs2, rfl, hoff⟩

theorem checkFails_checkPt {r : QReg}
    (hi : (∃ rd rs1, i = .pdbl rd rs1) ∨ (∃ rd rs1 rs2, i = .padd rd rs1 rs2) ∨ ∃ rd rs1 rs2, i = .pmul rd rs1 rs2)
    (hr : r ∈ i.qSources) (h : checkPt (s.qReg r) = .error e) : CheckFails i s e := by
  obtain ⟨rfl, hbad⟩ := checkPt_eq_error h
  exact .badSource hi ⟨r, hr, hbad⟩

end Checks

/-! ### Every instruction -/

/-- The inversion of `exec` with the reason for each exception: reads, then checks, then the write (R910). -/
theorem verdict_exec (i : Instr) (s : State) : Verdict i s (exec i s) := by
  cases i with
  | nop => exact .completed (not_readsUninit_of_none rfl rfl rfl) rfl
  | halt => exact .ended rfl
  | j target => exact .jumped target (.inl rfl)
  | bf target =>
    cases hf : s.f with
    | true => rw [exec_bf_of_set target hf]; exact .jumped target (.inr (.inl rfl))
    | false => rw [exec_bf_of_clear target hf]; exact .completed (not_readsUninit_of_none rfl rfl rfl) rfl
  | bnf target =>
    cases hf : s.f with
    | true => rw [exec_bnf_of_set target hf]; exact .completed (not_readsUninit_of_none rfl rfl rfl) rfl
    | false => rw [exec_bnf_of_clear target hf]; exact .jumped target (.inr (.inr rfl))
  | ldv | ldi | mkinf => exact .completed (not_readsUninit_of_none rfl rfl rfl) rfl
  | ldc rd cid => exact verdict_ldc rd cid s
  | stv => exact verdict_v rfl rfl rfl fun hr => .completed hr (by simp)
  | mov | setm => exact verdict_v rfl rfl rfl fun hr => .completed hr rfl
  | madd | msub => exact verdict_m_v_v rfl rfl rfl rfl fun hr _ _ => .completed hr rfl
  | mmul ms rd rs1 rs2 =>
    exact verdict_m_v_v rfl rfl rfl rfl fun hr m hm =>
      verdict_check hr (fun _ => checkFails_modcheck hm (.inl ⟨rd, rs1, rs2, rfl⟩)) fun _ _ => .completed hr rfl
  | minv ms rd rs1 =>
    exact verdict_m_v rfl rfl rfl rfl fun hr m hm =>
      verdict_check hr (fun _ => checkFails_modcheck hm (.inr ⟨rd, rs1, rfl⟩)) fun _ _ =>
        verdict_check hr (fun _ he => minvValue_eq_error he ▸ .noInverse ⟨ms, rd, rs1, rfl⟩) fun _ _ =>
          .completed hr rfl
  | cmpge => exact verdict_v_v rfl rfl rfl fun hr => .completed hr rfl
  | mkpt =>
    exact verdict_v_v rfl rfl rfl fun hr =>
      verdict_check hr (fun _ => checkFails_makePoint) fun _ _ => .completed hr rfl
  | pmov | ptinf => exact verdict_q rfl rfl rfl fun hr => .completed hr rfl
  | ptx rd rs1 =>
    refine verdict_q rfl rfl rfl fun hr => verdict_check hr (fun e he => ?_) fun _ _ => .completed hr rfl
    obtain ⟨rfl, hinf⟩ := pointX_eq_error he
    exact .infinity ⟨rd, rs1, .inl rfl, hinf⟩
  | pty rd rs1 =>
    refine verdict_q rfl rfl rfl fun hr => verdict_check hr (fun e he => ?_) fun _ _ => .completed hr rfl
    obtain ⟨rfl, hinf⟩ := pointY_eq_error he
    exact .infinity ⟨rd, rs1, .inr rfl, hinf⟩
  | padd rd rs1 rs2 =>
    have hi : ∃ rd' rs1' rs2', Instr.padd rd rs1 rs2 = .padd rd' rs1' rs2' := ⟨rd, rs1, rs2, rfl⟩
    exact verdict_q_q rfl rfl rfl fun hr =>
      verdict_check hr (fun _ => checkFails_checkPt (.inr (.inl hi)) (by simp [Instr.qSources])) fun _ _ =>
        verdict_check hr (fun _ => checkFails_checkPt (.inr (.inl hi)) (by simp [Instr.qSources])) fun _ _ =>
          .completed hr rfl
  | pdbl rd rs1 =>
    exact verdict_q rfl rfl rfl fun hr =>
      verdict_check hr (fun _ => checkFails_checkPt (.inl ⟨rd, rs1, rfl⟩) (by simp [Instr.qSources])) fun _ _ =>
        .completed hr rfl
  | pmul rd rs1 rs2 =>
    exact verdict_q_v rfl rfl rfl fun hr =>
      verdict_check hr (fun _ => checkFails_checkPt (.inr (.inr ⟨rd, rs1, rs2, rfl⟩)) (by simp [Instr.qSources]))
        fun _ _ => .completed hr rfl

theorem exc_code_inj {e e' : Exc} (h : e.code = e'.code) : e = e' := by
  revert h
  cases e <;> cases e' <;> decide

theorem exc_of_raise_eq {s : State} {e e' : Exc} {w w' : CmdWord} (h : s.raise e w = s.raise e' w') : e = e' :=
  exc_code_inj (congrArg State.cause h)

theorem ne_raise_of_next_pc {s t : State} (h : t.pc = s.pc + 1#9) (e : Exc) (w : CmdWord) : t ≠ s.raise e w := by
  rintro rfl
  rw [raise_pc] at h
  bv_omega

/-- An exception is raised for its cause, by an instruction of a run or by one that writes a point: a jump in FAULT can
leave the state that raising the last exception again would. -/
theorem cause_of_raise {i : Instr} {s : State} {e : Exc} {w : CmdWord} (h : exec i s = .next (s.raise e w))
    (hrun : s.runState = .busy ∨ i.qDest ≠ none) : RaiseCause i s e := by
  have hv := verdict_exec i s
  rw [h] at hv
  generalize ht : s.raise e w = t at hv
  cases hv with
  | completed _ hpc => exact absurd ht.symm (ne_raise_of_next_pc hpc e w)
  | jumped target hi =>
    rcases hrun with hb | hd
    · have hfault := congrArg State.runState ht
      simp [hb] at hfault
    · rcases hi with rfl | rfl | rfl <;> exact absurd rfl hd
  | ended => cases congrArg State.runState ht
  | raised he => exact exc_of_raise_eq ht ▸ he

/-! ### Instructions that one check decides -/

/-- An instruction whose last check is `x` raises the exception of that check. -/
theorem finish_map_raises_iff {α : Type} {x : Except Exc α} {f : α → State} {i : Instr} {s : State} {e : Exc}
    (hf : ∀ a, (f a).pc = s.pc + 1#9) :
    s.finish i (x.map f) = .next (s.raise e (encode i)) ↔ x = .error e := by
  cases x with
  | ok a =>
    have hne := ne_raise_of_next_pc (hf a) e (encode i)
    simp [Except.map, hne]
  | error e' =>
    simp only [Except.map, finish_error, Host.Outcome.next.injEq, Except.error.injEq]
    exact ⟨exc_of_raise_eq, fun h => h ▸ rfl⟩

theorem makePoint_eq_invalidEncoding_iff {x y : Word} :
    makePoint x y = .error .invalidEncoding ↔ primeP ≤ x.toNat ∨ primeP ≤ y.toNat := by
  refine ⟨fun h => ?_, makePoint_of_range⟩
  rcases makePoint_eq_error h with ⟨-, hrange⟩ | ⟨he, -⟩
  · exact hrange
  · cases he

theorem makePoint_of_offCurve {x y : Word} (hx : x.toNat < primeP) (hy : y.toNat < primeP)
    (h : onCurve x.toNat y.toNat = false) : makePoint x y = .error .invalidPoint := by
  rw [makePoint_of_canonical hx hy]
  exact if_neg (Bool.eq_false_iff.1 h)

theorem exec_pmul_of_invalid {rs1 : QReg} {rs2 : VReg} {s : State} (h1 : s.qValid rs1 = true)
    (h2 : s.vValid rs2 = true) (hp : validPt (s.qReg rs1) ≠ true) (rd : QReg) :
    exec (.pmul rd rs1 rs2) s = .next (s.raise .invalidPoint (encode (.pmul rd rs1 rs2))) := by
  simp [exec, execPmul, readQ_of_valid h1, readV_of_valid h2, checkPt_of_invalid hp]

/-! ### The obligations -/

/-- Settles O24, from `verdict_exec`: every other answer is given only with valid sources. -/
theorem uninitRaised : Obligations.UninitRaised := by
  refine ⟨fun i s hwf hr => ⟨?_, rfl⟩, fun i s t w hb h ht => ?_⟩
  · have hv := verdict_exec i s
    generalize exec i s = o at hv ⊢
    cases hv with
    | completed hn => exact absurd hr hn
    | jumped _ hi => rcases hi with rfl | rfl | rfl <;> exact absurd hr (not_readsUninit_of_none rfl rfl rfl)
    | ended hi => subst hi; exact absurd hr (not_readsUninit_of_none rfl rfl rfl)
    | raised he =>
      cases he with
      | illFormed hi => exact absurd hwf hi
      | uninit => rfl
      | check hn => exact absurd hr hn
  · subst ht
    cases cause_of_raise h (.inl hb) with
    | uninit hr => exact hr
    | check _ he => cases he

/-- Settles O22: the check fails for both instructions, and it is the only one that answers E_MODULUS. -/
theorem modulusRaised : Obligations.ModulusRaised := by
  refine ⟨fun rd rs1 rs2 s hm h1 h2 hbad => ?_, fun i s t w hb h ht => ?_⟩
  · have hc : modcheck 2#2 s.m = .error .modulus := if_pos ⟨rfl, hbad⟩
    constructor
    · simp [exec, execMmul, readM_of_valid hm, readV_of_valid h1, readV_of_valid h2, hc]
    · simp [exec, execMinv, readM_of_valid hm, readV_of_valid h1, hc]
  · subst ht
    cases cause_of_raise h (.inl hb) with
    | check _ he =>
      cases he with
      | modulus hi hbad => exact ⟨rfl, hbad, hi⟩

/-- Settles O27: PTX and PTY find no coordinate in infinity, and only they answer E_INFINITY. -/
theorem infinityRaised : Obligations.InfinityRaised := by
  refine ⟨fun rd rs1 s h1 hinf => ?_, fun i s t w hb h ht => ?_⟩
  · constructor
    · simp [exec, execPtx, readQ_of_valid h1, hinf, pointX]
    · simp [exec, execPty, readQ_of_valid h1, hinf, pointY]
  · subst ht
    cases cause_of_raise h (.inl hb) with
    | check _ he =>
      cases he with
      | infinity hi => exact ⟨rfl, hi⟩

/-- Settles O28: MKPT by the outcomes of `makePoint`, the others by the defensive check; nothing else by
`cause_of_raise`. -/
theorem pointChecksRaised : Obligations.PointChecksRaised := by
  refine ⟨fun rd rs1 rs2 s h1 h2 => ?_, fun i s t w hb h ht => ?_, fun rd rs1 rs2 s h1 h2 hx hy hoff => ?_,
    fun rd rs1 s h1 hp => ?_, fun rd rs1 rs2 s h1 h2 hp => ?_,
    fun rd rs1 rs2 s h1 h2 hp => exec_pmul_of_invalid h1 h2 (Bool.eq_false_iff.1 hp) rd, fun i s t w hb h ht => ?_⟩
  · rw [exec_mkpt h1 h2, finish_map_raises_iff fun _ => rfl, makePoint_eq_invalidEncoding_iff]
  · subst ht
    cases cause_of_raise h (.inl hb) with
    | check _ he =>
      cases he with
      | encoding hi => exact ⟨rfl, hi⟩
  · rw [exec_mkpt h1 h2, makePoint_of_offCurve hx hy hoff]; rfl
  · rw [exec_pdbl h1, if_neg (Bool.eq_false_iff.1 hp)]
  · have hnot : ¬ (validPt (s.qReg rs1) = true ∧ validPt (s.qReg rs2) = true) := by
      rwa [not_and_or, Bool.not_eq_true, Bool.not_eq_true]
    rw [exec_padd h1 h2, if_neg hnot]
  · subst ht
    cases cause_of_raise h (.inl hb) with
    | check _ he =>
      cases he with
      | offCurve hi => exact ⟨rfl, .inl hi⟩
      | badSource hi hr => exact ⟨rfl, .inr ⟨hi, hr⟩⟩

end Sys2Proof.ExceptionRules

/-! ## E_NO_INVERSE (60_exceptions R906) -/

namespace Sys2Proof.ExceptionRules

open Sys2Proof.Machine Sys2Proof.Laws Sys2Proof.ArithRules

theorem coprime_iff_exists_inverse {a m : Nat} (hm : 1 < m) : Nat.Coprime a m ↔ ∃ c, a * c % m = 1 := by
  constructor
  · intro h
    obtain ⟨c, -, hc⟩ := Nat.exists_mul_mod_eq_one_of_coprime h hm
    exact ⟨c, hc⟩
  · rintro ⟨c, hc⟩
    exact Nat.coprime_of_mul_modEq_one c (hc.trans (Nat.mod_eq_of_lt hm).symm)

theorem minvValue_eq_noInverse_iff {a m : Word} (hm : 1 < m.toNat) :
    minvValue a m = .error .noInverse ↔ ¬ ∃ c, a.toNat % m.toNat * c % m.toNat = 1 := by
  rw [← coprime_iff_exists_inverse hm, ← modInverse_eq_none_iff]
  unfold minvValue
  cases modInverse (a.toNat % m.toNat) m.toNat <;> simp

/-- MINV with a valid source and a usable modulus answers what the search for the inverse does. -/
theorem exec_minv_eq_finish {ms : BitVec 2} {rs1 : VReg} {s : State} {m : Word} (hm : s.modval ms = .ok m)
    (h1 : s.vValid rs1 = true) (hc : modcheck ms m = .ok ()) (rd : VReg) :
    exec (.minv ms rd rs1) s =
      s.finish (.minv ms rd rs1) ((minvValue (s.vReg rs1) m).map fun x => (s.writeV rd x).advance) := by
  simp only [exec, execMinv, hm, readV_of_valid h1, hc, except_ok_bind]
  cases minvValue (s.vReg rs1) m <;> rfl

theorem minv_raises_noInverse_iff {ms : BitVec 2} {rs1 : VReg} {s : State} {m : Word} (hm : s.modval ms = .ok m)
    (h1 : s.vValid rs1 = true) (hu : ms = 2#2 → m.toNat % 2 = 1 ∧ 3 ≤ m.toNat) (rd : VReg) :
    exec (.minv ms rd rs1) s = .next (s.raise .noInverse (encode (.minv ms rd rs1))) ↔
      ¬ ∃ c, (s.vReg rs1).toNat % m.toNat * c % m.toNat = 1 := by
  have hge := three_le_modulus hm hu
  rw [exec_minv_eq_finish hm h1 (modcheck_of_usable hu), finish_map_raises_iff fun _ => rfl,
    minvValue_eq_noInverse_iff (by omega)]

/-- Modulo a prime only 0 has no inverse. -/
theorem exists_inverse_mod_prime_iff {p : Nat} (hp : p.Prime) (a : Nat) : (∃ c, a % p * c % p = 1) ↔ a % p ≠ 0 := by
  rw [← coprime_iff_exists_inverse hp.one_lt, Nat.coprime_comm, hp.coprime_iff_not_dvd, Nat.dvd_iff_mod_eq_zero,
    Nat.mod_mod]

theorem modulus_prime {s : State} {ms : BitVec 2} {m : Word} (h : s.modval ms = .ok m) (hms : ms = 0#2 ∨ ms = 1#2) :
    m.toNat.Prime := by
  rcases hms with rfl | rfl <;> obtain rfl := Except.ok.inj h
  · exact primeP_prime
  · exact orderN_prime

/-- No instruction that writes a point raises E_NO_INVERSE: the only one that does is MINV. -/
theorem qDest_never_noInverse {i : Instr} {s : State} {w : CmdWord} (hd : i.qDest ≠ none) :
    exec i s ≠ .next (s.raise .noInverse w) := by
  intro h
  cases cause_of_raise h (.inr hd) with
  | check _ he =>
    cases he with
    | noInverse hi =>
      obtain ⟨ms, rd, rs1, rfl⟩ := hi
      exact hd rfl

/-- Settles O21: no inverse is `minv_raises_noInverse_iff`, P and N are prime, and PADD, PDBL and PMUL write a point,
so `qDest_never_noInverse`. -/
theorem noInverseRaised : Obligations.NoInverseRaised := by
  refine ⟨fun ms rd rs1 s m hm h1 hu => minv_raises_noInverse_iff hm h1 hu rd, fun ms rd rs1 s m hm hms h1 => ?_, ?_⟩
  · have hu : ms = 2#2 → m.toNat % 2 = 1 ∧ 3 ≤ m.toNat := by rintro rfl; simp at hms
    rw [minv_raises_noInverse_iff hm h1 hu, exists_inverse_mod_prime_iff (modulus_prime hm hms), not_not]
  · rintro rd rs1 rs2 s t w (h | h | h) rfl <;> exact qDest_never_noInverse (by simp [Instr.qDest]) h

end Sys2Proof.ExceptionRules

/-! ## Resets and hazards (70_reset R1000, R1001, R1012, R1014)

A core turn reads nothing of the state but what `SameRun` speaks of, so two states that agree on that make the same core
turn; and while BUSY every transaction but a soft reset leaves it alone. -/

namespace Sys2Proof.HazardRules

open Sys2Proof.Machine Sys2Proof.Laws Sys2Proof.StateRules Sys2Proof.MemoryRules

/-! ### The resets -/

theorem step_of_hardReset {s : State} (hm : s.nextMove = .hardReset) : step s = .next s.popMove.hardReset := by
  rw [step, hm]; rfl

/-- What a byte and a command word read as depends on the written cells and the draw of the contents alone (R227). -/
theorem sameRams_of_fields {s t : State} (hd : t.data = s.data) (hc : t.cmd = s.cmd)
    (hp : t.powerUps = s.powerUps) : SameRams s t where
  data := readByte_congr hd hp
  cmd := SameCommandRam.cmdWord ⟨hc, hp⟩

/-- Settles O49: a CTRL write with bit 2 set is the soft reset, whatever else it carries. -/
theorem bothResets : Obligations.BothResets := by
  refine ⟨fun s d h2 => ⟨_, rfl, ?_⟩, fun s hm => step_of_hardReset hm⟩
  rw [transact_ctrlWrite, writeCtrl_reset s h2]
  exact ⟨sameRams_of_fields rfl rfl rfl, rfl⟩

/-! ### A transaction during a run (R221, R1012) -/

theorem sameRun_hostEffect {s t : State} {x : Transaction} (h : HostEffect s x t) (hb : s.runState = .busy)
    (hr : (Move.bus x).isReset = false) : SameRun s t := by
  cases h with
  | softReset d h2 => rw [ctrlWrite_isReset, h2] at hr; cases hr
  | go _ _ _ hn | startPc _ hn | command _ _ _ hn | data _ _ _ hn => exact absurd hb hn
  | answered | readPc | ie | irqCleared => constructor <;> rfl

/-! ### What the core reads is the same -/

section Reads

variable {s s' : State} (h : SameRun s s')
include h

theorem readV_sameRun (r : VReg) : s'.readV r = s.readV r := by
  rw [State.readV, State.readV, vValid_congr h.validV, vReg_congr h.v]

theorem readQ_sameRun (r : QReg) : s'.readQ r = s.readQ r := by
  rw [State.readQ, State.readQ, qValid_congr h.validP, qReg_congr h.q]

theorem readM_sameRun : s'.readM = s.readM := by
  rw [State.readM, State.readM, h.validM, h.m]

theorem modval_sameRun (ms : BitVec 2) : s'.modval ms = s.modval ms := by
  rw [State.modval, State.modval, readM_sameRun h]

theorem constant_sameRun (cid : BitVec 4) : s'.constant cid = s.constant cid := by
  rw [State.constant, State.constant, readM_sameRun h]

theorem memRead_sameRun : ∀ n a : Nat, s'.memRead a n = s.memRead a n
  | 0, _ => rfl
  | n + 1, a => by rw [State.memRead, State.memRead, readByte_congr h.data h.powerUps, memRead_sameRun n]

/-- The core fetches the same word. -/
theorem fetch_sameRun : s'.cmdWord s'.pc.toNat = s.cmdWord s.pc.toNat := by
  rw [h.pc, SameCommandRam.cmdWord ⟨h.cmd, h.powerUps⟩]

end Reads

/-! ### What the core writes is the same -/

section Writes

variable {s s' : State} (h : SameRun s s')
include h

theorem sameRun_writeV (rd : VReg) (x : Word) : SameRun (s.writeV rd x) (s'.writeV rd x) :=
  { h with v := by simp [h.v], validV := by simp [h.validV] }

theorem sameRun_writeQ (rd : QReg) (pt : Point) : SameRun (s.writeQ rd pt) (s'.writeQ rd pt) :=
  { h with q := by simp [h.q], validP := by simp [h.validP] }

theorem sameRun_writeM (x : Word) : SameRun (s.writeM x) (s'.writeM x) :=
  { h with m := rfl, validM := rfl }

theorem sameRun_setF (b : Bool) : SameRun (s.setF b) (s'.setF b) :=
  { h with f := rfl }

theorem sameRun_advance : SameRun s.advance s'.advance :=
  { h with pc := by simp [h.pc] }

theorem sameRun_jump (target : BitVec 8) : SameRun (s.jump target) (s'.jump target) :=
  { h with pc := rfl }

theorem sameRun_halted : SameRun s.halted s'.halted :=
  { h with runState := rfl }

theorem sameRun_raise (e : Exc) (w : CmdWord) : SameRun (s.raise e w) (s'.raise e w) :=
  { h with runState := rfl, cause := rfl, faultPc := h.pc, faultInstr := rfl }

theorem sameRun_writeByte (a : Nat) (b : Byte) : SameRun (s.writeByte a b) (s'.writeByte a b) :=
  { h with data := by simp [h.data] }

/-- The trail is no part of what a run computes. -/
theorem sameRun_noteReached : SameRun s.noteReached s'.noteReached := by
  rw [noteReached_eq, noteReached_eq]
  exact { h with }

end Writes

theorem sameRun_memWrite : ∀ (bs : List Byte) (a : Nat) {s s' : State}, SameRun s s' →
    SameRun (s.memWrite a bs) (s'.memWrite a bs)
  | [], _, _, _, h => h
  | b :: bs, a, _, _, h => sameRun_memWrite bs (a + 1) (sameRun_writeByte h a b)

/-! ### Two answers with the same result -/

/-- Whenever the first answer is a next state, so is the second, and the run goes on the same from both. -/
def SameNext (r r' : Host.Outcome State Fault Refusal) : Prop :=
  ∀ t, r = .next t → ∃ t', r' = .next t' ∧ SameRun t t'

theorem sameNext_next {t t' : State} (h : SameRun t t') : SameNext (.next t) (.next t') := by
  rintro _ ⟨⟩
  exact ⟨t', rfl, h⟩

theorem sameNext_settle {r r' : Host.Outcome State Fault Refusal} (h : SameNext r r') :
    SameNext (settle r) (settle r') := by
  intro t ht
  obtain ⟨u, hu, rfl⟩ := settle_eq_next ht
  obtain ⟨u', rfl, hsame⟩ := h u hu
  exact ⟨_, rfl, sameRun_noteReached hsame⟩

section Instructions

variable {s s' : State} (h : SameRun s s')
include h

/-- One read or check of an instruction: it gives both the same value to go on with, or both the same exception. -/
theorem sameNext_bind {α : Type} {i : Instr} {x x' : Except Exc α} {f f' : α → Except Exc State} (hx : x' = x)
    (hf : ∀ a, SameNext (s.finish i (f a)) (s'.finish i (f' a))) :
    SameNext (s.finish i (x >>= f)) (s'.finish i (x' >>= f')) := by
  subst hx
  cases x' with
  | ok a => exact hf a
  | error e => exact sameNext_next (sameRun_raise h e _)

theorem sameNext_wroteV (rd : VReg) (x : Word) :
    SameNext (.next (s.writeV rd x).advance) (.next (s'.writeV rd x).advance) :=
  sameNext_next (sameRun_advance (sameRun_writeV h rd x))

theorem sameNext_wroteQ (rd : QReg) (pt : Point) :
    SameNext (.next (s.writeQ rd pt).advance) (.next (s'.writeQ rd pt).advance) :=
  sameNext_next (sameRun_advance (sameRun_writeQ h rd pt))

theorem sameNext_wroteF (b : Bool) : SameNext (.next (s.setF b).advance) (.next (s'.setF b).advance) :=
  sameNext_next (sameRun_advance (sameRun_setF h b))

/-- A branch takes the same arm of both. -/
theorem sameNext_branch {t u t' u' : State} (ht : SameRun t t') (hu : SameRun u u') :
    SameNext (.next (if s.f then t else u)) (.next (if s'.f then t' else u')) := by
  rw [h.f]
  split
  · exact sameNext_next ht
  · exact sameNext_next hu

/-- An instruction computes and records the same from states that agree on what a run computes with: read by read, then
check by check, then its write. -/
theorem sameNext_exec (i : Instr) : SameNext (exec i s) (exec i s') := by
  cases i with
  | nop => exact sameNext_next (sameRun_advance h)
  | halt => exact sameNext_next (sameRun_halted h)
  | j target => exact sameNext_next (sameRun_jump h target)
  | bf target => exact sameNext_branch h (sameRun_jump h target) (sameRun_advance h)
  | bnf target => exact sameNext_branch h (sameRun_advance h) (sameRun_jump h target)
  | ldv rd slot =>
    simp only [exec, execLdv, memRead_sameRun h]
    exact sameNext_wroteV h rd _
  | stv rs1 slot =>
    exact sameNext_bind h (readV_sameRun h rs1) fun x =>
      sameNext_next (sameRun_advance (sameRun_memWrite (bytesBe x) (slotAddr slot) h))
  | ldi rd imm => exact sameNext_wroteV h rd _
  | ldc rd cid => exact sameNext_bind h (constant_sameRun h cid) fun x => sameNext_wroteV h rd x
  | mov rd rs1 => exact sameNext_bind h (readV_sameRun h rs1) fun x => sameNext_wroteV h rd x
  | setm rs1 =>
    exact sameNext_bind h (readV_sameRun h rs1) fun x => sameNext_next (sameRun_advance (sameRun_writeM h x))
  | madd ms rd rs1 rs2 | msub ms rd rs1 rs2 =>
    exact sameNext_bind h (modval_sameRun h ms) fun m => sameNext_bind h (readV_sameRun h rs1) fun a =>
      sameNext_bind h (readV_sameRun h rs2) fun b => sameNext_wroteV h rd _
  | mmul ms rd rs1 rs2 =>
    exact sameNext_bind h (modval_sameRun h ms) fun m => sameNext_bind h (readV_sameRun h rs1) fun a =>
      sameNext_bind h (readV_sameRun h rs2) fun b => sameNext_bind h rfl fun _ => sameNext_wroteV h rd _
  | minv ms rd rs1 =>
    exact sameNext_bind h (modval_sameRun h ms) fun m => sameNext_bind h (readV_sameRun h rs1) fun a =>
      sameNext_bind h rfl fun _ => sameNext_bind h rfl fun x => sameNext_wroteV h rd x
  | cmpge rs1 rs2 =>
    exact sameNext_bind h (readV_sameRun h rs1) fun x => sameNext_bind h (readV_sameRun h rs2) fun y =>
      sameNext_wroteF h _
  | mkpt rd rs1 rs2 =>
    exact sameNext_bind h (readV_sameRun h rs1) fun x => sameNext_bind h (readV_sameRun h rs2) fun y =>
      sameNext_bind h rfl fun pt => sameNext_wroteQ h rd pt
  | mkinf rd => exact sameNext_wroteQ h rd _
  | pmov rd rs1 => exact sameNext_bind h (readQ_sameRun h rs1) fun pt => sameNext_wroteQ h rd pt
  | ptx rd rs1 | pty rd rs1 =>
    exact sameNext_bind h (readQ_sameRun h rs1) fun pt => sameNext_bind h rfl fun x => sameNext_wroteV h rd x
  | ptinf rs1 => exact sameNext_bind h (readQ_sameRun h rs1) fun pt => sameNext_wroteF h _
  | padd rd rs1 rs2 =>
    exact sameNext_bind h (readQ_sameRun h rs1) fun p => sameNext_bind h (readQ_sameRun h rs2) fun q =>
      sameNext_bind h rfl fun _ => sameNext_bind h rfl fun _ => sameNext_wroteQ h rd _
  | pdbl rd rs1 =>
    exact sameNext_bind h (readQ_sameRun h rs1) fun p => sameNext_bind h rfl fun _ => sameNext_wroteQ h rd _
  | pmul rd rs1 rs2 =>
    exact sameNext_bind h (readQ_sameRun h rs1) fun p => sameNext_bind h (readV_sameRun h rs2) fun k =>
      sameNext_bind h rfl fun _ => sameNext_wroteQ h rd _

theorem sameNext_runWord (w : CmdWord) : SameNext (s.runWord w) (s'.runWord w) := by
  unfold State.runWord
  split
  · exact sameNext_exec h _
  · exact sameNext_next (sameRun_raise h .illegal w)

/-- A core turn, by the three branches of the cycle (R132). -/
theorem sameNext_coreStep : SameNext (coreStep s) (coreStep s') := by
  unfold coreStep
  rw [h.runState, fetch_sameRun h, h.pc]
  split
  · exact sameNext_next h
  split
  · exact sameNext_settle (sameNext_next (sameRun_raise h .fetch 0#32))
  · exact sameNext_settle (sameNext_runWord h _)

end Instructions

/-- Settles O57: the transaction by `sameRun_hostEffect`, the core turn after it by `sameNext_coreStep`. -/
theorem hostCannotDisturbRun : Obligations.HostCannotDisturbRun := by
  intro s x hb hr
  have hsame : SameRun s (s.transact x) := sameRun_hostEffect (transact_effect s x) hb hr
  exact ⟨hsame, sameNext_coreStep hsame⟩

end Sys2Proof.HazardRules
